-- ==== Sys2Proof/Word.lean ====
section
/-! DEFINITION. The word types of the block's ports and registers, and the two fixed-size arrays
(four windows, eight fields) the spec indexes (spec/00_scope.md R7, R9, R12). -/

namespace Sys2Proof

/-- A field register (FIELD_W = 32), a window bound (WIN_W = 32) or the data of a command (DATA_W = 32), R7. -/
abbrev Word := BitVec 32

/-- A timestamp in microseconds (TS_W = 64), R7. -/
abbrev Timestamp := BitVec 64

/-- Four like things, numbered 0 to 3: the comparator windows and their match bits (WIN_N = 4, R7). -/
structure Four (α : Type) where
  i0 : α
  i1 : α
  i2 : α
  i3 : α
deriving DecidableEq, Repr

/-- Eight like things, numbered 0 to 7: the field registers and their configuration (NF = 8, R7). -/
structure Eight (α : Type) where
  f0 : α
  f1 : α
  f2 : α
  f3 : α
  f4 : α
  f5 : α
  f6 : α
  f7 : α
deriving DecidableEq, Repr

namespace Four

/-- `x[i]` of spec/00_scope.md R12. -/
def get {α : Type} (v : Four α) (i : Fin 4) : α :=
  match i with
  | 0 => v.i0
  | 1 => v.i1
  | 2 => v.i2
  | 3 => v.i3

/-- The same value four times. -/
def replicate {α : Type} (a : α) : Four α := ⟨a, a, a, a⟩

/-- A function applied to each of the four. -/
def map {α β : Type} (f : α → β) (v : Four α) : Four β := ⟨f v.i0, f v.i1, f v.i2, f v.i3⟩

end Four

namespace Eight

/-- `x[f]` of spec/00_scope.md R12. -/
def get {α : Type} (v : Eight α) (i : Fin 8) : α :=
  match i with
  | 0 => v.f0
  | 1 => v.f1
  | 2 => v.f2
  | 3 => v.f3
  | 4 => v.f4
  | 5 => v.f5
  | 6 => v.f6
  | 7 => v.f7

/-- The same value eight times. -/
def replicate {α : Type} (a : α) : Eight α := ⟨a, a, a, a, a, a, a, a⟩

/-- A function of two arrays, element by element. -/
def zipWith {α β γ : Type} (g : α → β → γ) (u : Eight α) (v : Eight β) : Eight γ :=
  ⟨g u.f0 v.f0, g u.f1 v.f1, g u.f2 v.f2, g u.f3 v.f3, g u.f4 v.f4, g u.f5 v.f5, g u.f6 v.f6, g u.f7 v.f7⟩

/-- The eight elements in order of their number. -/
def toList {α : Type} (v : Eight α) : List α := [v.f0, v.f1, v.f2, v.f3, v.f4, v.f5, v.f6, v.f7]

end Eight

end Sys2Proof
end

