-- ==== Sys2Proof/Config.lean ====
section
/-! DEFINITION. The elaboration parameters with a fixed value (spec/00_scope.md R7) and the per-channel
configuration record (spec/10_state.md R21 to R34). The record is an input bundle the host drives, not state
of the block (R21); the parameters the spec leaves open (N_CH, SAMPLE_W, CFG) are data in the model's State, so
that a claim holds for every value of them (log entries 2 and 3). No open value of this spec needs an opaque
constant: no rule leaves a result undefined (spec/93_implementation_defined.md). -/

namespace Sys2Proof

namespace Config

/-- NMAX, the largest telegram length in bits (R7). -/
def nMax : Nat := 64

/-- DATA_W, the width of the sample word (R7). -/
def dataW : Nat := 32

/-- The value the spec gives SAMPLE_W (R7, decision D3). The meanings take SAMPLE_W from State, never from here;
State.reset starts with this value. -/
def sampleWDefault : Nat := 24

end Config

/-- `cfg.win[i]`: a comparator window, any two unsigned 32-bit values (spec/10_state.md R25). -/
structure Window where
  center : Word
  tol : Word
deriving DecidableEq, Repr

/-- `cfg.fld[f]`: one field of the telegram (spec/10_state.md R28). -/
structure FieldCfg where
  en : Bool
  off : BitVec 6
  wid : BitVec 6
  msbFirst : Bool
  sext : Bool
  sxW : BitVec 6
  cmp : Bool
deriving DecidableEq, Repr

/-- `cfg[ch]`: the configuration record of one channel (spec/10_state.md R22 to R34, in their order). -/
structure Cfg where
  en : Bool
  family : BitVec 2
  lpfEn : Bool
  win : Four Window
  nBits : BitVec 7
  preMask : BitVec 64
  preVal : BitVec 64
  fld : Eight FieldCfg
  ckScheme : BitVec 2
  ckMask : BitVec 64
  ckInit : BitVec 4
  ckField : BitVec 3
  parMode : Bool
  parExp : BitVec 2
  ddInterval : Word
  ddPolicy : Bool
deriving DecidableEq, Repr

/-- The all-zero field record: a field that does not exist in the protocol. -/
def FieldCfg.zero : FieldCfg := ⟨false, 0, 0, false, false, 0, false⟩

/-- The all-zero record: a disabled channel (R22). What State.reset's one channel is driven with (log entry 2). -/
def Cfg.zero : Cfg :=
  { en := false, family := 0, lpfEn := false, win := Four.replicate ⟨0, 0⟩, nBits := 0, preMask := 0, preVal := 0,
    fld := Eight.replicate FieldCfg.zero, ckScheme := 0, ckMask := 0, ckInit := 0, ckField := 0, parMode := false,
    parExp := 0, ddInterval := 0, ddPolicy := false }

end Sys2Proof
end

