-- ==== Sys2Proof/Syntax.lean ====
section
/-! DEFINITION. The instructions, one constructor per row of spec/opcode_table.json: the four commands of the
34-bit command word (format CMD34, spec/30_encoding.md R75) and the nine unit operations a SAMPLE performs
(format UNIT, R80); and what the host drives on the input ports in one cycle (spec/10_state.md R20). -/

namespace Sys2Proof

/-- The instructions. A command carries its 32 data bits, those it ignores too, so that no bit of a command word
is lost. A unit operation carries nothing: its operands are the channel's state, its configuration and the nets
of the units before it (spec/00_scope.md R11, spec/30_encoding.md R79). -/
inductive Instr where
  /-- NOP, op 0b00 (R185). -/
  | nop (data : Word)
  /-- SAMPLE, op 0b01 (R186). -/
  | sample (data : Word)
  /-- RSV2, op 0b10, reserved (R187). -/
  | rsv2 (data : Word)
  /-- RSV3, op 0b11, reserved (R187). -/
  | rsv3 (data : Word)
  /-- WIN_MATCH, the comparator bank (R100). -/
  | winMatch
  /-- PS_DECODE, the Pulse-Space bit decoder (R110). -/
  | psDecode
  /-- BMC_DECODE, the Biphase-Mark bit decoder (R120). -/
  | bmcDecode
  /-- FRAME_APPLY, the message framer (R135). -/
  | frameApply
  /-- CHK_NONE, no checksum (R149). -/
  | chkNone
  /-- CHK_NIBBLE_SUB, the running nibble checksum (R145, R146). -/
  | chkNibbleSub
  /-- CHK_XOR_PARITY, the XOR parity (R147, R148). -/
  | chkXorParity
  /-- DEDUP_SUPPRESS, suppress-recent-identical (R174). -/
  | dedupSuppress
  /-- DEDUP_LOCK, confirm-on-second-duplicate (R175). -/
  | dedupLock
deriving DecidableEq, Repr

/-- What the host drives on the input ports in one cycle (spec/10_state.md R20): the reset input, the command word
`{cmd_op, cmd_data}`, the timestamp, and the configuration bundles if it changes them in this cycle (`none`: it
holds them stable, spec/70_reset_and_hazards.md R223). -/
structure HostCycle where
  rst : Bool
  cmd : BitVec 34
  ts : Timestamp
  cfg : Option (List Cfg)
deriving DecidableEq, Repr

/-- `cmd_op`, bits 33:32 of the command word (spec/30_encoding.md R75). -/
def cmdOp (w : BitVec 34) : BitVec 2 := w.extractLsb' 32 2

/-- `cmd_data`, bits 31:0 of the command word (spec/30_encoding.md R75). -/
def cmdData (w : BitVec 34) : Word := w.extractLsb' 0 32

end Sys2Proof
end

