-- ==== Sys2Proof/WellFormed.lean ====
section
/-! DEFINITION. What is well formed. An instruction: one the host may present as a command, and not a reserved one
(spec/30_encoding.md R75, R81). A host's program, the list of cycles it drives: it keeps the three duties the spec
puts on the host (R81, spec/70_reset_and_hazards.md R223, R224). The legality of a configuration record (R190) is
`Machine.Cfg.legal`, since the block itself evaluates it. Nothing in the step depends on this file: an ill-formed
program still runs as the spec says. -/

namespace Sys2Proof

/-- The instruction is one of the four commands of the command word (R75); a unit operation is not presented by the
host, it is performed by SAMPLE (R80). -/
def Instr.isCommand (i : Instr) : Bool :=
  match i with
  | .nop _ => true
  | .sample _ => true
  | .rsv2 _ => true
  | .rsv3 _ => true
  | .winMatch => false
  | .psDecode => false
  | .bmcDecode => false
  | .frameApply => false
  | .chkNone => false
  | .chkNibbleSub => false
  | .chkXorParity => false
  | .dedupSuppress => false
  | .dedupLock => false

/-- The instruction is a reserved command code (R81). -/
def Instr.isReserved (i : Instr) : Bool :=
  match i with
  | .rsv2 _ => true
  | .rsv3 _ => true
  | .nop _ => false
  | .sample _ => false
  | .winMatch => false
  | .psDecode => false
  | .bmcDecode => false
  | .frameApply => false
  | .chkNone => false
  | .chkNibbleSub => false
  | .chkXorParity => false
  | .dedupSuppress => false
  | .dedupLock => false

/-- An instruction a well-formed host program may present: a command that is not reserved (R75, R81). -/
def Instr.wf (i : Instr) : Bool := i.isCommand && !i.isReserved

/-- The cycle presents no reserved command: `cmd_op` is 0b00 or 0b01, or the block is in reset, where the command is
ignored (R81, R222). -/
def HostCycle.noReserved (c : HostCycle) : Bool := c.rst || cmdOp c.cmd = 0#2 || cmdOp c.cmd = 1#2

/-- The host changes the configuration only in a cycle with `rst = 1` (R223). -/
def HostCycle.cfgStable (c : HostCycle) : Bool := c.rst || c.cfg.isNone

/-- The cycle is one in which the block reads `ts_now`: a SAMPLE, not in reset (R224). -/
def HostCycle.readsTs (c : HostCycle) : Bool := !c.rst && cmdOp c.cmd = 1#2

/-- From the timestamp `t` on, `ts_now` never decreases from one SAMPLE cycle to a later one (R71, R224). -/
def HostProgram.tsMonotone (t : Timestamp) (p : List HostCycle) : Bool :=
  match p with
  | [] => true
  | c :: rest =>
    if c.readsTs then decide (t.toNat ≤ c.ts.toNat) && HostProgram.tsMonotone c.ts rest
    else HostProgram.tsMonotone t rest

/-- A well-formed host program, with `t` the timestamp of the last SAMPLE before it. -/
def HostProgram.wf (t : Timestamp) (p : List HostCycle) : Bool :=
  p.all HostCycle.noReserved && p.all HostCycle.cfgStable && HostProgram.tsMonotone t p

end Sys2Proof
end

