-- ==== Sys2Proof/Decode.lean ====
section
/-! DEFINITION. Decoding, and after it encoding, both written from spec/30_encoding.md. There are two encoding
spaces: the 34-bit command word (R75), which the host presents, and the selectors of the configuration record,
which pick the unit operation of each stage of a SAMPLE (R80). -/

namespace Sys2Proof

/-- A code of one of the two encoding spaces. The five selector forms are the five stages of R80's table, each with
the width of the configuration field that selects it; classify and frame have no selector ("none", "always"). -/
inductive OpWord where
  /-- A command word (R75). -/
  | cmd (w : BitVec 34)
  /-- Stage classify: no selector. -/
  | classify
  /-- Stage decode: `cfg.family`. -/
  | decodeSel (family : BitVec 2)
  /-- Stage frame: no selector. -/
  | frame
  /-- Stage check: `cfg.ck_scheme`. -/
  | checkSel (scheme : BitVec 2)
  /-- Stage deduplicate: `cfg.dd_policy`. -/
  | dedupSel (policy : Bool)
deriving DecidableEq, Repr

/-- Why a code is no instruction. -/
inductive DecodeReject where
  /-- `cfg.family` 0b10 or 0b11 (R83). -/
  | reservedFamily (code : BitVec 2)
  /-- `cfg.ck_scheme` 0b11 (R83). -/
  | reservedScheme (code : BitVec 2)
  /-- More bits than a command word has (R75, R82: one format, one length). -/
  | commandTooWide
deriving DecidableEq, Repr

/-- The command in a command word: `op` in bits 33:32 says which, `data` is bits 31:0 (R75). Every 34-bit word is a
command; the reserved codes are commands too, with the meaning of R187 (R81). -/
def decodeCommand (w : BitVec 34) : Instr :=
  if cmdOp w = 0#2 then .nop (cmdData w)
  else if cmdOp w = 1#2 then .sample (cmdData w)
  else if cmdOp w = 2#2 then .rsv2 (cmdData w)
  else .rsv3 (cmdData w)

/-- The unit operation a family code selects (R80, R83). -/
def decodeFamily (family : BitVec 2) : Except DecodeReject Instr :=
  if family = 0#2 then .ok .psDecode
  else if family = 1#2 then .ok .bmcDecode
  else .error (.reservedFamily family)

/-- The unit operation a check-scheme code selects (R80, R83). -/
def decodeScheme (scheme : BitVec 2) : Except DecodeReject Instr :=
  if scheme = 0#2 then .ok .chkNone
  else if scheme = 1#2 then .ok .chkNibbleSub
  else if scheme = 2#2 then .ok .chkXorParity
  else .error (.reservedScheme scheme)

/-- The instruction a code stands for, or the reason it stands for none. -/
def decode (w : OpWord) : Except DecodeReject Instr :=
  match w with
  | .cmd w => .ok (decodeCommand w)
  | .classify => .ok .winMatch
  | .decodeSel family => decodeFamily family
  | .frame => .ok .frameApply
  | .checkSel scheme => decodeScheme scheme
  | .dedupSel policy => .ok (if policy then .dedupLock else .dedupSuppress)

/-- The command word with the given `op` and `data`: `{op, data}` (R75). -/
def commandWord (op : BitVec 2) (data : Word) : BitVec 34 := op ++ data

/-- The code of an instruction, from the tables of R75 and R80. -/
def encode (i : Instr) : OpWord :=
  match i with
  | .nop data => .cmd (commandWord 0 data)
  | .sample data => .cmd (commandWord 1 data)
  | .rsv2 data => .cmd (commandWord 2 data)
  | .rsv3 data => .cmd (commandWord 3 data)
  | .winMatch => .classify
  | .psDecode => .decodeSel 0
  | .bmcDecode => .decodeSel 1
  | .frameApply => .frame
  | .chkNone => .checkSel 0
  | .chkNibbleSub => .checkSel 1
  | .chkXorParity => .checkSel 2
  | .dedupSuppress => .dedupSel false
  | .dedupLock => .dedupSel true

/-- The bits of a code as spec/opcode_table.json numbers them: a command word, or a selector's value. -/
def OpWord.bits (w : OpWord) : Nat :=
  match w with
  | .cmd w => w.toNat
  | .classify => 0
  | .decodeSel family => family.toNat
  | .frame => 0
  | .checkSel scheme => scheme.toNat
  | .dedupSel policy => policy.toNat

/-- The mask and the match of the instruction's row of spec/opcode_table.json (for the commands also R75). -/
def tableRow (i : Instr) : Nat × Nat :=
  match i with
  | .nop _ => (0x300000000, 0x000000000)
  | .sample _ => (0x300000000, 0x100000000)
  | .rsv2 _ => (0x300000000, 0x200000000)
  | .rsv3 _ => (0x300000000, 0x300000000)
  | .winMatch => (0x0, 0x0)
  | .psDecode => (0x3, 0x0)
  | .bmcDecode => (0x3, 0x1)
  | .frameApply => (0x0, 0x0)
  | .chkNone => (0x3, 0x0)
  | .chkNibbleSub => (0x3, 0x1)
  | .chkXorParity => (0x3, 0x2)
  | .dedupSuppress => (0x1, 0x0)
  | .dedupLock => (0x1, 0x1)

/-- The codes that a legal configuration's selectors give the five stages of a SAMPLE, in R80's order. -/
def Cfg.stageCodes (cfg : Cfg) : List OpWord :=
  [.classify, .decodeSel cfg.family, .frame, .checkSel cfg.ckScheme, .dedupSel cfg.ddPolicy]

/-- The code that the table's bits `w` stand for, when the table gives the row `nbits` bits. From 34 bits up the row
is a command's. A row of fewer bits is a unit operation's, and its bits are a selector's value; the table does not
say of WHICH selector, and three rows share most values. The value is read as a family code and, if the family
reserves it, as a check-scheme code (log entry 5). -/
def tableCode (nbits w : Nat) : Except DecodeReject OpWord :=
  if 34 ≤ nbits then
    if w < 2 ^ 34 then .ok (.cmd (BitVec.ofNat 34 w)) else .error .commandTooWide
  else if w < 2 then .ok (.decodeSel (BitVec.ofNat 2 w))
  else if w < 4 then .ok (.checkSel (BitVec.ofNat 2 w))
  else .error .commandTooWide

/-- What the decoder reads from the bits of one row of the table (log entry 5). -/
def decodeTableWord (nbits w : Nat) : Option Instr :=
  match tableCode nbits w with
  | .ok code =>
    match decode code with
    | .ok i => some i
    | .error _ => none
  | .error _ => none

end Sys2Proof
end

