-- ==== Sys2Proof/Machine/State.lean ====
section
/-! DEFINITION. The state: every element of spec/10_state.md R37 to R49 with its reset value (R53), and the inputs
and nets that stand in State for want of another place (log entries 1 to 4). All of it plain data. -/

namespace Sys2Proof.Machine

/-- `dec_ps` (R37): the Pulse-Space decoder's state. -/
inductive PsState where
  /-- 0, "Idle". -/
  | idle
  /-- 1, "PulseReceived". -/
  | pulseRcvd
deriving DecidableEq, Repr

/-- The bit-decoder state (R37). -/
structure DecState where
  /-- `dec_ps`. -/
  ps : PsState
  /-- `dec_half`: a half-length interval is pending. -/
  half : Bool
  /-- `dec_cont`: the continuity flag. -/
  cont : Bool
deriving DecidableEq, Repr

/-- The framer's state (R38 to R40). -/
structure FrmState where
  /-- `cursor`, CUR_W = 6 bits. -/
  cursor : BitVec 6
  /-- `fld[0..7]`, the raw field values. -/
  fld : Eight Word
  /-- `ck_acc`, the running nibble checksum. -/
  ckAcc : BitVec 4
  /-- `ck_nib`, the last four masked bits, the most recent in bit 0. -/
  ckNib : BitVec 4
  /-- `ck_cnt`, masked bits received mod 4. -/
  ckCnt : BitVec 2
  /-- `par`, the parity bits. -/
  par : BitVec 2
deriving DecidableEq, Repr

/-- The duplicate suppressor's state (R41). -/
structure DedupState where
  /-- `prev_valid`. -/
  prevValid : Bool
  /-- `prev_fld[0..7]`. -/
  prevFld : Eight Word
  /-- `prev_ts`. -/
  prevTs : Timestamp
  /-- `lock`. -/
  lock : Bool
deriving DecidableEq, Repr

/-- The output registers of one channel (R45 to R49). `o_cfg_err` is not one of them: it is a function of `cfg`. -/
structure Outputs where
  /-- `o_bit`, `{instream, valid, value}`. -/
  bit : BitVec 3
  /-- `o_frm_valid`, a strobe. -/
  frmValid : Bool
  /-- `o_frm_fld[0..7]`. -/
  frmFld : Eight Word
  /-- `o_frm_ts`. -/
  frmTs : Timestamp
  /-- `o_frm_ck_ok`. -/
  frmCkOk : Bool
  /-- `o_emit`, a strobe. -/
  emit : Bool
  /-- `o_out_fld[0..7]`. -/
  outFld : Eight Word
  /-- `o_out_ts`. -/
  outTs : Timestamp
  /-- `o_evt_resync`, a strobe. -/
  evtResync : Bool
  /-- `o_evt_abort`, a strobe. -/
  evtAbort : Bool
  /-- `o_evt_ckfail`, a strobe. -/
  evtCkfail : Bool
  /-- `o_evt_dup`, a strobe. -/
  evtDup : Bool
  /-- `o_anom`, shows the sticky `anom`. -/
  anom : Bool
deriving DecidableEq, Repr

/-- The bit bus between decoder and framer (spec/30_encoding.md R78). -/
structure BitBus where
  value : Bool
  valid : Bool
  instream : Bool
deriving DecidableEq, Repr

/-- A message (spec/43_framer.md R153): eight field values after sign extension, and a timestamp. -/
structure Message where
  out : Eight Word
  ts : Timestamp
deriving DecidableEq, Repr

/-- The combinational nets of one channel: what each unit gives the units after it in the same cycle
(spec/00_scope.md R11). No state of the block: idle before and after every command (spec/45_commands.md R189, log
entry 4). -/
structure Nets where
  /-- The duration d (spec/30_encoding.md R77). -/
  d : Word
  /-- The match bits m[0..3] (spec/40_classifier.md R100). -/
  m : Four Bool
  /-- The decoder's bit bus. -/
  bit : BitBus
  /-- The check unit's verdict (spec/43_framer.md R146, R148, R149). -/
  ckPass : Bool
  /-- The framer's message, if it produced one. -/
  msg : Option Message
  /-- The framer's event bits (spec/43_framer.md R135). -/
  resync : Bool
  abort : Bool
  ckfail : Bool
  /-- The suppressor's decision (spec/44_duplicate_suppressor.md R170). -/
  emit : Bool
  dup : Bool
deriving DecidableEq, Repr

/-- One channel: its configuration input, its state elements, its output registers and its nets. -/
structure Channel where
  /-- `cfg[ch]`, an input (R21). -/
  cfg : Cfg
  dec : DecState
  frm : FrmState
  dd : DedupState
  /-- `anom`, sticky (R42). -/
  anom : Bool
  out : Outputs
  nets : Nets
deriving DecidableEq, Repr

/-- The block and what its host drives. -/
structure State where
  /-- SAMPLE_W (spec/00_scope.md R7). -/
  sampleW : Nat
  /-- The channels 0 to N_CH - 1 (spec/60_exceptions.md R209). -/
  chans : List Channel
  /-- `cmd_err`, sticky, one for the block (R42). -/
  cmdErr : Bool
  /-- `o_cmd_err` (R49). -/
  oCmdErr : Bool
  /-- `ts_now`, the input's value in the current cycle (R20). -/
  tsNow : Timestamp
  /-- What the host drives in the cycles to come, the next one first (log entry 1). -/
  pending : List HostCycle
deriving DecidableEq, Repr

/-- Why the machine stops with a fault: it never does ("No condition inside the block raises an exception or trap,
stops the block, or needs outside intervention", spec/60_exceptions.md R200), so there is no constructor. -/
inductive Fault
deriving DecidableEq, Repr

/-- Why a step is refused. -/
inductive Refusal where
  /-- An instruction without a meaning in the model; raised by no arm of exec. Safe. -/
  | notModelled (mnemonic : String)
  /-- The host changed `cfg` in a cycle with `rst = 0`, a run the spec gives no meaning to and has the model refuse
  (spec/70_reset_and_hazards.md R223, spec/93_implementation_defined.md I3); raised by step. Safe. -/
  | cfgChangedWhileRunning
deriving DecidableEq, Repr

/-- The decoder's state after reset (R53). -/
def DecState.reset : DecState := { ps := .idle, half := false, cont := false }

/-- The framer's state after reset (R53). -/
def FrmState.reset : FrmState :=
  { cursor := 0, fld := Eight.replicate 0, ckAcc := 0, ckNib := 0, ckCnt := 0, par := 0 }

/-- The suppressor's state after reset (R53). -/
def DedupState.reset : DedupState :=
  { prevValid := false, prevFld := Eight.replicate 0, prevTs := 0, lock := false }

/-- The output registers after reset (R53). -/
def Outputs.reset : Outputs :=
  { bit := 0, frmValid := false, frmFld := Eight.replicate 0, frmTs := 0, frmCkOk := false, emit := false,
    outFld := Eight.replicate 0, outTs := 0, evtResync := false, evtAbort := false, evtCkfail := false,
    evtDup := false, anom := false }

/-- The bus with no bit on it, `0b000` (spec/41_pulse_space.md R110, NOBIT). -/
def BitBus.none : BitBus := { value := false, valid := false, instream := false }

/-- The nets with no sample on them. -/
def Nets.idle : Nets :=
  { d := 0, m := Four.replicate false, bit := BitBus.none, ckPass := false, msg := Option.none, resync := false,
    abort := false, ckfail := false, emit := false, dup := false }

/-- A channel after reset, with the configuration it is driven with (R53; `cfg` has no reset value). -/
def Channel.initial (cfg : Cfg) : Channel :=
  { cfg := cfg, dec := DecState.reset, frm := FrmState.reset, dd := DedupState.reset, anom := false,
    out := Outputs.reset, nets := Nets.idle }

/-- The machine right after reset: every state element and output register as R53 says; one channel, its
configuration input all zero, and nothing pending from the host (log entries 1 to 3). -/
def State.reset : State :=
  { sampleW := Config.sampleWDefault, chans := [Channel.initial Cfg.zero], cmdErr := false, oCmdErr := false,
    tsNow := 0, pending := [] }

end Sys2Proof.Machine
end

