-- ==== Sys2Proof/Machine/Legality.lean ====
section
/-! DEFINITION. LEGAL(cfg), the nine conditions of spec/45_commands.md R190, each under its number there. -/

namespace Sys2Proof.Machine

/-- Offset c lies in the enabled field f: `off ≤ c < off + wid` (spec/43_framer.md R139). -/
def covers (f : FieldCfg) (c : Nat) : Bool :=
  f.en && decide (f.off.toNat ≤ c) && decide (c < f.off.toNat + f.wid.toNat)

/-- The offset ranges of two fields have no offset in common. -/
def rangesDisjoint (f g : FieldCfg) : Bool :=
  f.wid = 0#6 || g.wid = 0#6 || decide (f.off.toNat + f.wid.toNat ≤ g.off.toNat)
    || decide (g.off.toNat + g.wid.toNat ≤ f.off.toNat)

/-- Every field of the list is disjoint from every later one, as far as both are enabled. -/
def pairwiseDisjoint (fs : List FieldCfg) : Bool :=
  match fs with
  | [] => true
  | f :: rest => rest.all (fun g => !(f.en && g.en) || rangesDisjoint f g) && pairwiseDisjoint rest

/-- L1: `family ∈ {0b00, 0b01}`. -/
def legalFamily (cfg : Cfg) : Bool := cfg.family = 0#2 || cfg.family = 1#2

/-- L2: `1 ≤ n_bits ≤ NMAX`. -/
def legalLength (cfg : Cfg) : Bool := decide (1 ≤ cfg.nBits.toNat) && decide (cfg.nBits.toNat ≤ Config.nMax)

/-- L3: for every enabled field, `1 ≤ wid ≤ 32` and `off + wid ≤ n_bits`. -/
def legalRanges (cfg : Cfg) : Bool :=
  cfg.fld.toList.all fun f => !f.en ||
    (decide (1 ≤ f.wid.toNat) && decide (f.wid.toNat ≤ 32) && decide (f.off.toNat + f.wid.toNat ≤ cfg.nBits.toNat))

/-- L4: the offset ranges of enabled fields are pairwise disjoint. -/
def legalDisjoint (cfg : Cfg) : Bool := pairwiseDisjoint cfg.fld.toList

/-- L5: for every enabled field with `sext = 1`, `wid ≤ sx_w ≤ 32`. -/
def legalExtension (cfg : Cfg) : Bool :=
  cfg.fld.toList.all fun f => !(f.en && f.sext) ||
    (decide (f.wid.toNat ≤ f.sxW.toNat) && decide (f.sxW.toNat ≤ 32))

/-- L6: `pre_mask[c] = 0` for every c ≥ n_bits and every c inside an enabled field. -/
def legalPreamble (cfg : Cfg) : Bool :=
  (List.range 64).all fun c => !cfg.preMask.getLsbD c ||
    (decide (c < cfg.nBits.toNat) && cfg.fld.toList.all fun f => !covers f c)

/-- L7: `ck_scheme ≠ 0b11`. -/
def legalScheme (cfg : Cfg) : Bool := cfg.ckScheme != 3#2

/-- L8: `ck_mask[c] = 0` for every c ≥ n_bits. -/
def legalCkMask (cfg : Cfg) : Bool :=
  (List.range 64).all fun c => !cfg.ckMask.getLsbD c || decide (c < cfg.nBits.toNat)

/-- L9: if `ck_scheme = 0b01`, the field `ck_field` is enabled. -/
def legalCkField (cfg : Cfg) : Bool := cfg.ckScheme != 1#2 || (cfg.fld.get cfg.ckField.toFin).en

/-- LEGAL(cfg), R190. -/
def legal (cfg : Cfg) : Bool :=
  legalFamily cfg && legalLength cfg && legalRanges cfg && legalDisjoint cfg && legalExtension cfg
    && legalPreamble cfg && legalScheme cfg && legalCkMask cfg && legalCkField cfg

/-- The channel processes samples: `cfg.en = 1` and LEGAL(cfg) (spec/45_commands.md R186, R188, R191). -/
def Channel.active (c : Channel) : Bool := c.cfg.en && legal c.cfg

/-- `o_cfg_err`: the channel is enabled and its configuration is illegal (spec/10_state.md R49). -/
def Channel.oCfgErr (c : Channel) : Bool := c.cfg.en && !legal c.cfg

end Sys2Proof.Machine
end

