-- ==== Sys2Proof/Machine/Operands.lean ====
section
/-! DEFINITION. The operands: the duration of a SAMPLE (spec/30_encoding.md R77), the bit bus's patterns (R78), and
the bit-level helpers the unit rules use (spec/00_scope.md R9, R10). -/

namespace Sys2Proof.Machine

/-- `d = zext_32(cmd_data[SAMPLE_W-1:0])` (R77): the low SAMPLE_W bits, the others ignored. -/
def duration (sampleW : Nat) (data : Word) : Word := BitVec.ofNat 32 (data.toNat % 2 ^ sampleW)

/-- `BIT(v, i)`: the bus with value v, valid 1, instream i (spec/41_pulse_space.md R110). -/
def BitBus.bit (v i : Bool) : BitBus := { value := v, valid := true, instream := i }

/-- The three bits of the bus: bit 0 value, bit 1 valid, bit 2 instream (R78). -/
def BitBus.toBits (b : BitBus) : BitVec 3 :=
  BitVec.ofBool b.instream ++ BitVec.ofBool b.valid ++ BitVec.ofBool b.value

/-- The value v with its bit p set to b, no other bit changed. -/
def setBit (v : Word) (p : Nat) (b : Bool) : Word :=
  if b then v ||| (1#32 <<< p) else v &&& ~~~(1#32 <<< p)

end Sys2Proof.Machine
end

