-- ==== Sys2Proof/Machine/Flags.lean ====
section
/-! DEFINITION. The flag-like elements (spec/10_state.md R43, R48 to R52): clearing the strobes, and the sticky
command-error flag. -/

namespace Sys2Proof.Machine

/-- The output registers after a cycle that raised nothing: `o_bit` and every strobe are 0, the data outputs and
`o_anom` hold (R50, R51; spec/45_commands.md R185, R188). -/
def Outputs.quiet (o : Outputs) : Outputs :=
  { o with bit := 0, frmValid := false, emit := false, evtResync := false, evtAbort := false, evtCkfail := false,
           evtDup := false }

/-- The channel after a cycle that does nothing in it: no state element changes. -/
def Channel.quiet (c : Channel) : Channel := { c with out := c.out.quiet }

/-- `cmd_err <- 1`, and `o_cmd_err` shows it (R42, R49). -/
def State.raiseCmdErr (s : State) : State := { s with cmdErr := true, oCmdErr := true }

end Sys2Proof.Machine
end

