-- ==== Sys2Proof/Machine/Ops.lean ====
section
/-! DEFINITION. The operations over the whole block that the commands and units share: doing something in every
channel, doing a unit operation in the channels that select it, the two ends of a SAMPLE's pipeline, and reset. There
is no memory to read or write (spec/20_memory.md R60) and no exception to take (spec/60_exceptions.md R205): reset is
the one operation that overrides a command (spec/70_reset_and_hazards.md R222). -/

namespace Sys2Proof.Machine

/-- An operation done in every channel, each on its own state (spec/20_memory.md R68). -/
def State.onEach (s : State) (f : Channel → Channel) : State := { s with chans := s.chans.map f }

/-- A unit operation done in every enabled, legal channel whose configuration selects it, and in no other
(spec/30_encoding.md R80). -/
def State.onSelected (s : State) (sel : Cfg → Bool) (f : Channel → Channel) : State :=
  s.onEach fun c => if c.active && sel c.cfg then f c else c

/-- The beginning of a sample in a channel: the duration on its net, every later net idle (spec/45_commands.md
R186, R189). -/
def Channel.drive (d : Word) (c : Channel) : Channel := { c with nets := { Nets.idle with d := d } }

/-- The end of a sample in a channel: the output registers take what the nets carry, as the last lines of R186's
pseudocode say, and the nets are idle again. -/
def Channel.latch (c : Channel) : Channel :=
  { c with
    out :=
      { bit := c.nets.bit.toBits
        frmValid := c.nets.msg.isSome
        frmFld := match c.nets.msg with | some msg => msg.out | none => c.out.frmFld
        frmTs := match c.nets.msg with | some msg => msg.ts | none => c.out.frmTs
        frmCkOk := match c.nets.msg with | some _ => true | none => c.out.frmCkOk
        emit := c.nets.emit
        outFld := match c.nets.msg with
          | some msg => if c.nets.emit then msg.out else c.out.outFld
          | none => c.out.outFld
        outTs := match c.nets.msg with
          | some msg => if c.nets.emit then msg.ts else c.out.outTs
          | none => c.out.outTs
        evtResync := c.nets.resync
        evtAbort := c.nets.abort
        evtCkfail := c.nets.ckfail
        evtDup := c.nets.dup
        anom := c.anom }
    nets := Nets.idle }

/-- What a cycle with `rst = 1` does to a channel: every state element and output register takes its reset value
(spec/70_reset_and_hazards.md R220). -/
def Channel.doReset (c : Channel) : Channel := Channel.initial c.cfg

/-- What a cycle with `rst = 1` does to the block (R220). -/
def State.doReset (s : State) : State := { s.onEach Channel.doReset with cmdErr := false, oCmdErr := false }

/-- The host drives the configuration bundles: record k goes to channel k. A channel beyond the list keeps what it
is driven with, a record beyond the channels drives no port (log entry 6). -/
def driveCfg (cfgs : List Cfg) (cs : List Channel) : List Channel :=
  match cfgs, cs with
  | cfg :: cfgs, c :: cs => { c with cfg := cfg } :: driveCfg cfgs cs
  | [], cs => cs
  | _ :: _, [] => []

/-- The block with the configuration bundles driven as the cycle says (R20, R223). -/
def State.withCfg (s : State) (cfgs : Option (List Cfg)) : State :=
  match cfgs with
  | some l => { s with chans := driveCfg l s.chans }
  | none => s

/-- The cycle on the input ports: the next one the host drives; when it has nothing to send, a NOP with `rst = 0`,
the same timestamp and the same configuration (spec/30_encoding.md R75, R84). -/
def State.cycle (s : State) : HostCycle :=
  match s.pending with
  | c :: _ => c
  | [] => { rst := false, cmd := 0, ts := s.tsNow, cfg := none }

/-- The block at the start of the next cycle: the timestamp port takes the cycle's value, and the cycle leaves the
list. -/
def State.accept (s : State) : State := { s with tsNow := s.cycle.ts, pending := s.pending.tail }

end Sys2Proof.Machine
end

