-- ==== Sys2Proof/Machine/Classifier.lean ====
section
/-! DEFINITION. The timing classifier (spec/40_classifier.md): WIN_MATCH and FIRST. It holds no state (R102). -/

namespace Sys2Proof.Machine

/-- `LO(w) = center - tol`, an integer, possibly negative (R100). -/
def windowLo (w : Window) : Int := (w.center.toNat : Int) - (w.tol.toNat : Int)

/-- `HI(w) = center + tol`, an integer, possibly over 2^32 - 1 (R100). -/
def windowHi (w : Window) : Int := (w.center.toNat : Int) + (w.tol.toNat : Int)

/-- `WIN_MATCH(d, w)`: both bounds inclusive, compared as integers (R100). -/
def winMatch (d : Nat) (w : Window) : Bool := decide (windowLo w ≤ (d : Int)) && decide ((d : Int) ≤ windowHi w)

/-- The match bits m[0..3] (R100). -/
def matchBits (d : Word) (win : Four Window) : Four Bool := win.map (winMatch d.toNat)

/-- `FIRST(m, order)`: the first window of the list that matches, or none (R101). -/
def first (m : Four Bool) (order : List (Fin 4)) : Option (Fin 4) :=
  match order with
  | [] => none
  | i :: rest => if m.get i then some i else first m rest

/-- The comparator bank of one channel. -/
def Channel.classify (c : Channel) : Channel :=
  { c with nets := { c.nets with m := matchBits c.nets.d c.cfg.win } }

/-- WIN_MATCH: in every enabled, legal channel the four comparators put their match bits on the nets. -/
def execWinMatch (s : State) : Host.Outcome State Fault Refusal :=
  .next (s.onSelected (fun _ => true) Channel.classify)

end Sys2Proof.Machine
end

