-- ==== Sys2Proof/Machine/PulseSpace.lean ====
section
/-! DEFINITION. The Pulse-Space bit decoder (spec/41_pulse_space.md). -/

namespace Sys2Proof.Machine

/-- `PS_DECODE(dec, m)`, R110 with its four transitions R111 to R114. -/
def psDecode (dec : DecState) (m : Four Bool) : BitBus × DecState :=
  match dec.ps with
  | .idle =>
    if m.get 0 then (BitBus.none, { dec with ps := .pulseRcvd })
    else (BitBus.none, { dec with cont := false })
  | .pulseRcvd =>
    match first m [1, 2] with
    | some k =>
      if k = 1 then (BitBus.bit false dec.cont, { dec with ps := .idle, cont := true })
      else (BitBus.bit true dec.cont, { dec with ps := .idle, cont := true })
    | none => (BitBus.none, { dec with ps := .idle, cont := false })

/-- The Pulse-Space decoder of one channel. -/
def Channel.psStage (c : Channel) : Channel :=
  { c with dec := (psDecode c.dec c.nets.m).2, nets := { c.nets with bit := (psDecode c.dec c.nets.m).1 } }

/-- The selector of PS_DECODE, `cfg.family = 0b00` (spec/30_encoding.md R80). -/
def selPs (cfg : Cfg) : Bool := cfg.family = 0#2

/-- PS_DECODE, in every enabled, legal Pulse-Space channel. -/
def execPsDecode (s : State) : Host.Outcome State Fault Refusal := .next (s.onSelected selPs Channel.psStage)

end Sys2Proof.Machine
end

