-- ==== Sys2Proof/Machine/BiphaseMark.lean ====
section
/-! DEFINITION. The Biphase-Mark bit decoder, both variants (spec/42_biphase_mark.md). -/

namespace Sys2Proof.Machine

/-- The low-pass filter discards the sample: `lpf_en = 1` and `d < LO(win[0])` (R121). -/
def filtered (cfg : Cfg) (d : Nat) : Bool := cfg.lpfEn && decide ((d : Int) < windowLo (cfg.win.get 0))

/-- `BMC_DECODE(dec, d, m)`, R120 with R121 to R126. -/
def bmcDecode (cfg : Cfg) (dec : DecState) (d : Nat) (m : Four Bool) : BitBus × DecState :=
  if filtered cfg d then (BitBus.none, dec)
  else
    match first m [0, 1] with
    | some k =>
      if k = 0 then
        if dec.half then (BitBus.bit true dec.cont, { dec with half := false, cont := true })
        else (BitBus.none, { dec with half := true })
      else (BitBus.bit false dec.cont, { dec with half := false, cont := true })
    | none => (BitBus.none, { dec with half := false, cont := false })

/-- The Biphase-Mark decoder of one channel. -/
def Channel.bmcStage (c : Channel) : Channel :=
  { c with
    dec := (bmcDecode c.cfg c.dec c.nets.d.toNat c.nets.m).2
    nets := { c.nets with bit := (bmcDecode c.cfg c.dec c.nets.d.toNat c.nets.m).1 } }

/-- The selector of BMC_DECODE, `cfg.family = 0b01` (spec/30_encoding.md R80). -/
def selBmc (cfg : Cfg) : Bool := cfg.family = 1#2

/-- BMC_DECODE, in every enabled, legal Biphase-Mark channel. -/
def execBmcDecode (s : State) : Host.Outcome State Fault Refusal := .next (s.onSelected selBmc Channel.bmcStage)

end Sys2Proof.Machine
end

