-- ==== Sys2Proof/Machine/Checker.lean ====
section
/-! DEFINITION. The checksum/parity unit (spec/43_framer.md, section 4): its three schemes, each an update of the
accumulators at a masked offset and a final check, and the three unit operations. The framer calls the scheme its
configuration selects (R144), on its state with `cursor` holding the effective cursor. -/

namespace Sys2Proof.Machine

/-- The offset in the cursor feeds the accumulators: `cfg.ck_mask[c] = 1` (R144). -/
def ckMasked (cfg : Cfg) (f : FrmState) : Bool := cfg.ckMask.getLsbD f.cursor.toNat

/-- NIBBLE_SUB at an offset, with the bit b (R145): shift the bit in, and at every fourth masked bit subtract the
nibble from the accumulator. -/
def nibbleUpdate (cfg : Cfg) (f : FrmState) (b : Bool) : FrmState :=
  if ckMasked cfg f then
    { f with
      ckNib := f.ckNib.extractLsb' 0 3 ++ BitVec.ofBool b
      ckCnt := f.ckCnt + 1
      ckAcc := if f.ckCnt = 3#2 then f.ckAcc - (f.ckNib.extractLsb' 0 3 ++ BitVec.ofBool b) else f.ckAcc }
  else f

/-- NIBBLE_SUB's final check: the accumulator equals the low four bits of field `ck_field` (R146). -/
def nibblePass (cfg : Cfg) (f : FrmState) : Bool := f.ckAcc = (f.fld.get cfg.ckField.toFin).extractLsb' 0 4

/-- The parity bit an offset feeds: its own parity under EVEN_ODD, bit 0 under SINGLE (R147). -/
def parityGroup (cfg : Cfg) (f : FrmState) : Nat := if cfg.parMode then f.cursor.toNat % 2 else 0

/-- XOR_PARITY at an offset, with the bit b (R147). -/
def parityUpdate (cfg : Cfg) (f : FrmState) (b : Bool) : FrmState :=
  if ckMasked cfg f then
    { f with par := f.par ^^^ ((BitVec.ofBool b).setWidth 2 <<< parityGroup cfg f) }
  else f

/-- XOR_PARITY's final check (R148). -/
def parityPass (cfg : Cfg) (f : FrmState) : Bool :=
  f.par.getLsbD 0 == cfg.parExp.getLsbD 0 && (!cfg.parMode || f.par.getLsbD 1 == cfg.parExp.getLsbD 1)

/-- `CK_UPDATE`, by the scheme of the configuration (R144). -/
def ckUpdate (cfg : Cfg) (f : FrmState) (b : Bool) : FrmState :=
  if cfg.ckScheme = 1#2 then nibbleUpdate cfg f b
  else if cfg.ckScheme = 2#2 then parityUpdate cfg f b
  else f

/-- `CK_FINAL`, by the scheme of the configuration (R146, R148, R149). -/
def ckFinal (cfg : Cfg) (f : FrmState) : Bool :=
  if cfg.ckScheme = 1#2 then nibblePass cfg f
  else if cfg.ckScheme = 2#2 then parityPass cfg f
  else true

/-- The check unit of one channel, with a scheme's update and final check: when the bus carries a bit, the
accumulators take it at the offset in the cursor, and the verdict is put on its net. -/
def Channel.checkStage (update : Cfg → FrmState → Bool → FrmState) (final : Cfg → FrmState → Bool) (c : Channel) :
    Channel :=
  if c.nets.bit.valid then
    { c with
      frm := update c.cfg c.frm c.nets.bit.value
      nets := { c.nets with ckPass := final c.cfg (update c.cfg c.frm c.nets.bit.value) } }
  else c

/-- CHK_NONE's selector, `cfg.ck_scheme = 0b00` (spec/30_encoding.md R80). -/
def selChkNone (cfg : Cfg) : Bool := cfg.ckScheme = 0#2

/-- CHK_NIBBLE_SUB's selector, `cfg.ck_scheme = 0b01`. -/
def selChkNibble (cfg : Cfg) : Bool := cfg.ckScheme = 1#2

/-- CHK_XOR_PARITY's selector, `cfg.ck_scheme = 0b10`. -/
def selChkParity (cfg : Cfg) : Bool := cfg.ckScheme = 2#2

/-- CHK_NONE: no accumulator changes (R144), every telegram passes (R149). -/
def execChkNone (s : State) : Host.Outcome State Fault Refusal :=
  .next (s.onSelected selChkNone (Channel.checkStage (fun _ f _ => f) (fun _ _ => true)))

/-- CHK_NIBBLE_SUB (R145, R146). -/
def execChkNibbleSub (s : State) : Host.Outcome State Fault Refusal :=
  .next (s.onSelected selChkNibble (Channel.checkStage nibbleUpdate nibblePass))

/-- CHK_XOR_PARITY (R147, R148). -/
def execChkXorParity (s : State) : Host.Outcome State Fault Refusal :=
  .next (s.onSelected selChkParity (Channel.checkStage parityUpdate parityPass))

end Sys2Proof.Machine
end

