-- ==== Sys2Proof/Machine/Framer.lean ====
section
/-! DEFINITION. The message framer (spec/43_framer.md): FRAME_APPLY, with the one-shot resync folded into the
effective cursor (R137), the preamble validator (R140), the field accumulator (R141) and the sign extension (R152). -/

namespace Sys2Proof.Machine

/-- The bit is a continuity break in a telegram: `cursor != 0` and `instream = 0` (R137). -/
def resyncs (f : FrmState) (bit : BitBus) : Bool := f.cursor != 0#6 && !bit.instream

/-- START_VALUES at the effective cursor 0 (R138). -/
def frameStart (cfg : Cfg) : FrmState :=
  { cursor := 0, fld := Eight.replicate 0, ckAcc := cfg.ckInit, ckNib := 0, ckCnt := 0, par := 0 }

/-- The framer's state as the bit finds it, `cursor` holding the effective cursor: a new telegram's when the bit
resyncs or the cursor is 0, else the telegram in progress (R137, R138). -/
def frameEnter (cfg : Cfg) (f : FrmState) (bit : BitBus) : FrmState :=
  if resyncs f bit || f.cursor = 0#6 then frameStart cfg else f

/-- The offset in the cursor is a preamble position whose bit must be another (R140). -/
def preambleMismatch (cfg : Cfg) (f : FrmState) (b : Bool) : Bool :=
  cfg.preMask.getLsbD f.cursor.toNat && b != cfg.preVal.getLsbD f.cursor.toNat

/-- The bit position of a field that the bit at offset c goes to (R141). -/
def bitPos (fc : FieldCfg) (c : Nat) : Nat :=
  if fc.msbFirst then fc.wid.toNat - 1 - (c - fc.off.toNat) else c - fc.off.toNat

/-- One field register at offset c: written when the field covers the offset, else unchanged (R141, R142). -/
def writeField (c : Nat) (b : Bool) (fc : FieldCfg) (v : Word) : Word :=
  if covers fc c then setBit v (bitPos fc c) b else v

/-- `FIELD_WRITE(F, c, b)` (R141). -/
def fieldWrite (cfg : Cfg) (fld : Eight Word) (c : Nat) (b : Bool) : Eight Word :=
  Eight.zipWith (writeField c b) cfg.fld fld

/-- The framer's state after the bit is placed: field written, then the accumulators updated (R135). -/
def framePlace (cfg : Cfg) (f : FrmState) (b : Bool) : FrmState :=
  ckUpdate cfg { f with fld := fieldWrite cfg f.fld f.cursor.toNat b } b

/-- The offset in the cursor is the last one, N - 1 (R150). -/
def atLast (cfg : Cfg) (f : FrmState) : Bool := f.cursor.toNat + 1 = cfg.nBits.toNat

/-- `SX(f, v)`: bits X-1 down to w set when the field is signed and its sign bit is set (R152). -/
def signExtend (fc : FieldCfg) (v : Word) : Word :=
  if fc.sext && v.getLsbD (fc.wid.toNat - 1) then
    v ||| BitVec.ofNat 32 ((2 ^ fc.sxW.toNat - 1) - (2 ^ fc.wid.toNat - 1))
  else v

/-- The message value of a field: sign-extended, and 0 for a field that does not exist (R152, R153). -/
def messageField (fc : FieldCfg) (v : Word) : Word := if fc.en then signExtend fc v else 0

/-- `SEXT_ALL(F)` (R152). -/
def sextAll (cfg : Cfg) (fld : Eight Word) : Eight Word := Eight.zipWith messageField cfg.fld fld

/-- The result of FRAME_APPLY: the new framer state, a message if one was produced, and the event bits (R135). -/
structure FrameResult where
  frm : FrmState
  msg : Option Message
  resync : Bool
  abort : Bool
  ckfail : Bool
deriving DecidableEq, Repr

/-- FRAME_APPLY from the framer's state with the effective cursor on (R140 to R155). -/
def frameFrom (cfg : Cfg) (f : FrmState) (b : Bool) (ts : Timestamp) (resync : Bool) : FrameResult :=
  if preambleMismatch cfg f b then
    { frm := { f with cursor := 0 }, msg := none, resync := resync, abort := true, ckfail := false }
  else if atLast cfg f then
    { frm := { framePlace cfg f b with cursor := 0 }
      msg := if ckFinal cfg (framePlace cfg f b) then some ⟨sextAll cfg (framePlace cfg f b).fld, ts⟩ else none
      resync := resync
      abort := false
      ckfail := !ckFinal cfg (framePlace cfg f b) }
  else
    { frm := { framePlace cfg f b with cursor := f.cursor + 1 }, msg := none, resync := resync, abort := false
      ckfail := false }

/-- `FRAME_APPLY(frm, bit, ts)` (R135). -/
def frameApply (cfg : Cfg) (f : FrmState) (bit : BitBus) (ts : Timestamp) : FrameResult :=
  if bit.valid then frameFrom cfg (frameEnter cfg f bit) bit.value ts (resyncs f bit)
  else { frm := f, msg := none, resync := false, abort := false, ckfail := false }

/-- The framer of one channel, in a cycle with the given `ts_now`. -/
def Channel.frameStage (ts : Timestamp) (c : Channel) : Channel :=
  { c with
    frm := (frameApply c.cfg c.frm c.nets.bit ts).frm
    nets :=
      { c.nets with
        msg := (frameApply c.cfg c.frm c.nets.bit ts).msg
        resync := (frameApply c.cfg c.frm c.nets.bit ts).resync
        abort := (frameApply c.cfg c.frm c.nets.bit ts).abort
        ckfail := (frameApply c.cfg c.frm c.nets.bit ts).ckfail } }

/-- FRAME_APPLY, in every enabled, legal channel. -/
def execFrameApply (s : State) : Host.Outcome State Fault Refusal :=
  .next (s.onSelected (fun _ => true) (Channel.frameStage s.tsNow))

end Sys2Proof.Machine
end

