-- ==== Sys2Proof/Machine/Dedup.lean ====
section
/-! DEFINITION. The duplicate suppressor (spec/44_duplicate_suppressor.md) with its two policies. -/

namespace Sys2Proof.Machine

/-- `delta`, the time since the previous message, saturated at 0 (R173). -/
def delta (dd : DedupState) (msg : Message) : Nat :=
  if dd.prevTs.toNat ≤ msg.ts.toNat then msg.ts.toNat - dd.prevTs.toNat else 0

/-- The message's timestamp is earlier than the previous message's (R173). -/
def goesBack (dd : DedupState) (msg : Message) : Bool := dd.prevValid && decide (msg.ts.toNat < dd.prevTs.toNat)

/-- Field f of two messages does not tell them apart: it is not compared, or it is equal (R171). -/
def fieldAgrees (cfg : Cfg) (u v : Eight Word) (i : Fin 8) : Bool :=
  !((cfg.fld.get i).en && (cfg.fld.get i).cmp) || u.get i == v.get i

/-- Two messages are field-identical: every compared field is equal (R171). -/
def fieldsIdentical (cfg : Cfg) (u v : Eight Word) : Bool :=
  fieldAgrees cfg u v 0 && fieldAgrees cfg u v 1 && fieldAgrees cfg u v 2 && fieldAgrees cfg u v 3
    && fieldAgrees cfg u v 4 && fieldAgrees cfg u v 5 && fieldAgrees cfg u v 6 && fieldAgrees cfg u v 7

/-- The message is the same physical observation as the previous one: there is one, its compared fields are equal,
and less than T has passed (R170, R172, R177). -/
def sameAsPrevious (cfg : Cfg) (dd : DedupState) (msg : Message) : Bool :=
  dd.prevValid && fieldsIdentical cfg msg.out dd.prevFld && decide (delta dd msg < cfg.ddInterval.toNat)

/-- The message becomes the previous one (R176). -/
def DedupState.remember (dd : DedupState) (msg : Message) : DedupState :=
  { dd with prevValid := true, prevFld := msg.out, prevTs := msg.ts }

/-- The suppressor's decision: its new state, and whether the message is emitted (R170; `dup` is `not emit`). -/
structure DedupResult where
  dd : DedupState
  emit : Bool
deriving DecidableEq, Repr

/-- DEDUP under suppress-recent-identical (R174, R176). -/
def dedupSuppress (cfg : Cfg) (dd : DedupState) (msg : Message) : DedupResult :=
  { dd := dd.remember msg, emit := !sameAsPrevious cfg dd msg }

/-- DEDUP under the lock policy (R175, R176). -/
def dedupLock (cfg : Cfg) (dd : DedupState) (msg : Message) : DedupResult :=
  if sameAsPrevious cfg dd msg then
    if dd.lock then { dd := dd.remember msg, emit := false }
    else { dd := { dd.remember msg with lock := true }, emit := true }
  else { dd := { dd.remember msg with lock := false }, emit := false }

/-- The suppressor of one channel, under a policy: a message goes through it, the sticky `anom` is set if its
timestamp goes back, and the decision is put on the nets; without a message nothing changes (R170). -/
def Channel.dedupStage (policy : Cfg → DedupState → Message → DedupResult) (c : Channel) : Channel :=
  match c.nets.msg with
  | some msg =>
    { c with
      dd := (policy c.cfg c.dd msg).dd
      anom := c.anom || goesBack c.dd msg
      nets := { c.nets with emit := (policy c.cfg c.dd msg).emit, dup := !(policy c.cfg c.dd msg).emit } }
  | none => { c with nets := { c.nets with emit := false, dup := false } }

/-- DEDUP_SUPPRESS's selector, `cfg.dd_policy = 0` (spec/30_encoding.md R80). -/
def selSuppress (cfg : Cfg) : Bool := !cfg.ddPolicy

/-- DEDUP_LOCK's selector, `cfg.dd_policy = 1`. -/
def selLock (cfg : Cfg) : Bool := cfg.ddPolicy

/-- DEDUP_SUPPRESS, in every enabled, legal channel with that policy. -/
def execDedupSuppress (s : State) : Host.Outcome State Fault Refusal :=
  .next (s.onSelected selSuppress (Channel.dedupStage dedupSuppress))

/-- DEDUP_LOCK, in every enabled, legal channel with that policy. -/
def execDedupLock (s : State) : Host.Outcome State Fault Refusal :=
  .next (s.onSelected selLock (Channel.dedupStage dedupLock))

end Sys2Proof.Machine
end

