-- ==== Sys2Proof/Machine/Commands.lean ====
section
/-! DEFINITION. The four commands (spec/45_commands.md R185 to R187). -/

namespace Sys2Proof.Machine

/-- NOP (R185): no state element changes, the strobes and `o_bit` are 0. The data and `ts_now` are not read. -/
def execNop (_data : Word) (s : State) : Host.Outcome State Fault Refusal := .next (s.onEach Channel.quiet)

/-- RSV2 (R187): as NOP, and `cmd_err` is set. -/
def execRsv2 (_data : Word) (s : State) : Host.Outcome State Fault Refusal :=
  .next (s.onEach Channel.quiet).raiseCmdErr

/-- RSV3 (R187): as NOP, and `cmd_err` is set. -/
def execRsv3 (_data : Word) (s : State) : Host.Outcome State Fault Refusal :=
  .next (s.onEach Channel.quiet).raiseCmdErr

/-- The bit decoder that the configuration's family selects (R186). -/
def Channel.decodeStage (c : Channel) : Channel := if c.cfg.family = 0#2 then c.psStage else c.bmcStage

/-- The suppressor under the policy that the configuration selects (R170). -/
def Channel.suppressStage (c : Channel) : Channel :=
  if c.cfg.ddPolicy then c.dedupStage dedupLock else c.dedupStage dedupSuppress

/-- One sample in one channel (R186): classify, decode, frame, deduplicate, and the output registers; in a disabled
or illegal channel nothing but the strobes and `o_bit` falling to 0 (R188, R191). -/
def Channel.sample (d : Word) (ts : Timestamp) (c : Channel) : Channel :=
  if c.active then (((((c.drive d).classify).decodeStage).frameStage ts).suppressStage).latch else c.quiet

/-- SAMPLE (R186): every channel processes the same sample in the same cycle. -/
def execSample (data : Word) (s : State) : Host.Outcome State Fault Refusal :=
  .next (s.onEach (Channel.sample (duration s.sampleW data) s.tsNow))

end Sys2Proof.Machine
end

