-- ==== Sys2Proof/Machine/Dispatch.lean ====
section
/-! DEFINITION. What each instruction does: one arm per constructor of Instr. -/

namespace Sys2Proof.Machine

def exec (i : Instr) (s : State) : Host.Outcome State Fault Refusal :=
  match i with
  | .nop data => Sys2Proof.Machine.execNop data s
  | .sample data => Sys2Proof.Machine.execSample data s
  | .rsv2 data => Sys2Proof.Machine.execRsv2 data s
  | .rsv3 data => Sys2Proof.Machine.execRsv3 data s
  | .winMatch => Sys2Proof.Machine.execWinMatch s
  | .psDecode => Sys2Proof.Machine.execPsDecode s
  | .bmcDecode => Sys2Proof.Machine.execBmcDecode s
  | .frameApply => Sys2Proof.Machine.execFrameApply s
  | .chkNone => Sys2Proof.Machine.execChkNone s
  | .chkNibbleSub => Sys2Proof.Machine.execChkNibbleSub s
  | .chkXorParity => Sys2Proof.Machine.execChkXorParity s
  | .dedupSuppress => Sys2Proof.Machine.execDedupSuppress s
  | .dedupLock => Sys2Proof.Machine.execDedupLock s

end Sys2Proof.Machine
end

