-- ==== Sys2Proof/Machine/Cycle.lean ====
section
/-! DEFINITION. The parts of one clock cycle around the command: the host's configuration drive, and the fetch
words of Step.lean. -/

namespace Sys2Proof.Machine

/-- The block as the command of the next cycle finds it: the timestamp port and the configuration bundles driven as
the cycle says, the cycle taken off the list (spec/10_state.md R20). -/
def State.beginCycle (s : State) : State := s.accept.withCfg s.cycle.cfg

/-- The host changes the configuration in the next cycle although `rst` is 0 (spec/70_reset_and_hazards.md R223). -/
def State.cfgChanged (s : State) : Bool :=
  !s.cycle.rst && (s.withCfg s.cycle.cfg).chans.map Channel.cfg != s.chans.map Channel.cfg

/-- The host presents the command word in the next cycle, before what it was going to present. -/
def State.present (s : State) (w : BitVec 34) : State :=
  { s with pending := { rst := false, cmd := w, ts := s.tsNow, cfg := none } :: s.pending }

/-- A legal one-bit configuration with the given selectors, under which the sample 0 is a full interval on a
Biphase-Mark channel: one SAMPLE runs every stage of the pipeline. -/
def probeCfg (family scheme : BitVec 2) (policy : Bool) : Cfg :=
  { Cfg.zero with
    en := true, family := family, win := ⟨⟨1, 0⟩, ⟨0, 0⟩, ⟨0, 0⟩, ⟨0, 0⟩⟩, nBits := 1, ckScheme := scheme,
    ddPolicy := policy }

/-- The configuration that has a SAMPLE perform the unit operation a selector code stands for. -/
def probeFor (code : OpWord) : Cfg :=
  match code with
  | .cmd _ => probeCfg 1 0 false
  | .classify => probeCfg 1 0 false
  | .decodeSel family => probeCfg family 0 false
  | .frame => probeCfg 1 0 false
  | .checkSel scheme => probeCfg 1 scheme false
  | .dedupSel policy => probeCfg 1 0 policy

/-- What stands where step finds its next instruction. A command word is presented by the host. A unit operation is
selected by the configuration and performed by a SAMPLE, so its code goes into every channel's configuration, and
the host presents SAMPLE 0 (spec/30_encoding.md R80, log entry 5). -/
def State.place (s : State) (code : OpWord) : State :=
  match code with
  | .cmd w => s.present w
  | .classify => (s.onEach fun c => { c with cfg := probeFor code }).present (commandWord 1 0)
  | .decodeSel _ => (s.onEach fun c => { c with cfg := probeFor code }).present (commandWord 1 0)
  | .frame => (s.onEach fun c => { c with cfg := probeFor code }).present (commandWord 1 0)
  | .checkSel _ => (s.onEach fun c => { c with cfg := probeFor code }).present (commandWord 1 0)
  | .dedupSel _ => (s.onEach fun c => { c with cfg := probeFor code }).present (commandWord 1 0)

end Sys2Proof.Machine
end

