-- ==== Sys2Proof/Machine/Step.lean ====
section
/-! DEFINITION. One step is one clock cycle: reset if the host drives `rst` (it wins over the command,
spec/70_reset_and_hazards.md R222), else the command the host presents. -/

namespace Sys2Proof.Machine

/-- One cycle of `clk` (spec/70_reset_and_hazards.md R229). -/
def step (s : State) : Host.Outcome State Fault Refusal :=
  if s.cfgChanged then .refused .cfgChangedWhileRunning
  else if s.cycle.rst then .next s.beginCycle.doReset
  else exec (decodeCommand s.cycle.cmd) s.beginCycle

/-- The state with the instruction of a table row where step finds its next one (log entry 5). -/
def State.withFetchWord (s : State) (nbits w : Nat) : State :=
  match tableCode nbits w with
  | .ok code => s.place code
  | .error _ => s

end Sys2Proof.Machine
end

