-- ==== Sys2Proof/Safety.lean ====
section
/-! DEFINITION. The terms claims use: what a unit operation or a sample does in each channel and leaves alone in the
others, what the spec's whole-machine sentences say of every state between two commands, and what "gone wrong" means
(spec/60_exceptions.md R212). -/

namespace Sys2Proof.Machine

/-- The bus patterns a decoder produces (spec/30_encoding.md R78). -/
def busPattern (b : BitVec 3) : Prop := b = 0b000 ∨ b = 0b010 ∨ b = 0b011 ∨ b = 0b110 ∨ b = 0b111

/-- Which output strobes may be 1 together (spec/60_exceptions.md R203): an abort excludes a failed check and a
message, a failed check excludes a message, and a message is either emitted or a duplicate. -/
def strobesAgree (o : Outputs) : Prop :=
  (o.evtAbort = true → o.evtCkfail = false ∧ o.frmValid = false) ∧
  (o.evtCkfail = true → o.frmValid = false) ∧
  (o.emit = true ∨ o.evtDup = true ↔ o.frmValid = true) ∧
  ¬ (o.emit = true ∧ o.evtDup = true)

/-- The channel's unit state is its reset state. -/
def Channel.unitsAtReset (c : Channel) : Prop :=
  c.dec = DecState.reset ∧ c.frm = FrmState.reset ∧ c.dd = DedupState.reset ∧ c.anom = false

/-- A field register holds nothing outside its field: zero at and above `wid`, zero if the field does not exist
(spec/10_state.md R39, spec/43_framer.md R143). -/
def fieldFits (fc : FieldCfg) (v : Word) : Prop :=
  (fc.en = false → v = 0) ∧ (fc.en = true → v.toNat < 2 ^ fc.wid.toNat)

/-- The invariant of one channel between two commands. -/
structure Channel.Inv (c : Channel) : Prop where
  /-- Nothing is buffered but the unit state (spec/45_commands.md R189). -/
  netsIdle : c.nets = Nets.idle
  /-- `o_anom` shows `anom` (spec/10_state.md R49). -/
  anomShown : c.out.anom = c.anom
  /-- `o_bit` is one of the five patterns (spec/30_encoding.md R78). -/
  busOk : busPattern c.out.bit
  /-- The strobes agree (spec/60_exceptions.md R203). -/
  strobes : strobesAgree c.out
  /-- An inert channel is as reset left it (spec/45_commands.md R188, R191, spec/70_reset_and_hazards.md R223). -/
  inert : c.active = false → c.unitsAtReset
  /-- The cursor is in 0..N-1 (spec/10_state.md R38). -/
  cursorBelow : c.active = true → c.frm.cursor.toNat < c.cfg.nBits.toNat
  /-- A Pulse-Space channel has no pending half (spec/41_pulse_space.md R116). -/
  psHalf : c.cfg.family = 0#2 → c.dec.half = false
  /-- A Biphase-Mark channel stays IDLE (spec/42_biphase_mark.md R129). -/
  bmcIdle : c.cfg.family = 1#2 → c.dec.ps = .idle
  /-- Every field register fits its field (spec/10_state.md R39). -/
  fieldsFit : ∀ i, fieldFits (c.cfg.fld.get i) (c.frm.fld.get i)
  /-- Under SINGLE `par[1]` stays 0 (spec/43_framer.md R147). -/
  parSingle : c.cfg.parMode = false → c.frm.par.getLsbD 1 = false
  /-- Under suppress-recent-identical `lock` stays 0 (spec/44_duplicate_suppressor.md R178). -/
  lockUnused : c.cfg.ddPolicy = false → c.dd.lock = false
  /-- Before the first message the suppressor is as reset left it (spec/44_duplicate_suppressor.md R177). -/
  noPrevious : c.dd.prevValid = false → c.dd = DedupState.reset
  /-- The framed-message outputs show the previous message (spec/10_state.md R46, R51,
  spec/44_duplicate_suppressor.md R176). -/
  framedShown : c.out.frmFld = c.dd.prevFld ∧ c.out.frmTs = c.dd.prevTs ∧ c.out.frmCkOk = c.dd.prevValid
  /-- An emitted message is the one just remembered (spec/44_duplicate_suppressor.md R176, R179). -/
  emittedShown : c.out.emit = true → c.out.outFld = c.dd.prevFld ∧ c.out.outTs = c.dd.prevTs

/-- The invariant of the block between two commands. -/
structure State.Inv (s : State) : Prop where
  /-- N_CH is at least 1 (spec/00_scope.md R7). -/
  someChannel : s.chans ≠ []
  /-- SAMPLE_W bits of a 32-bit word are kept (spec/30_encoding.md R77). -/
  sampleWidth : s.sampleW ≤ Config.dataW
  /-- `o_cmd_err` shows `cmd_err` (spec/10_state.md R49). -/
  cmdErrShown : s.oCmdErr = s.cmdErr
  /-- Every channel keeps its own invariant. -/
  channels : ∀ c ∈ s.chans, c.Inv

/-- "Gone wrong" for a claim about the channels `about` (spec/60_exceptions.md R212): `o_cmd_err`, or `o_cfg_err` on a
channel the claim is about. What another channel shows does not count. -/
def State.goneWrong (s : State) (about : Nat → Prop) : Prop :=
  s.oCmdErr = true ∨ ∃ (k : Nat) (c : Channel), about k ∧ s.chans[k]? = some c ∧ c.oCfgErr = true

/-- The host broke its timestamp duty: `o_anom` on a channel the claim is about (spec/60_exceptions.md R212). -/
def State.clockAnomaly (s : State) (about : Nat → Prop) : Prop :=
  ∃ (k : Nat) (c : Channel), about k ∧ s.chans[k]? = some c ∧ c.out.anom = true

/-- No channel the claim is about has seen a message later than `t`. -/
def State.seenUpTo (s : State) (about : Nat → Prop) (t : Timestamp) : Prop :=
  ∀ (k : Nat) (c : Channel), about k → s.chans[k]? = some c → c.dd.prevTs.toNat ≤ t.toNat

/-- The channel is enabled, its configuration is legal, and the configuration satisfies `sel`. -/
def Selected (sel : Cfg → Prop) (c : Channel) : Prop := c.cfg.en = true ∧ legal c.cfg = true ∧ sel c.cfg

/-- In every state the instruction completes; it changes nothing but the channels, no channel that is not selected,
and in a selected channel it does what `P` says, of the state before, the channel before and the channel after. -/
def UnitOperation (i : Instr) (sel : Cfg → Prop) (P : State → Channel → Channel → Prop) : Prop :=
  ∀ s : State, ∃ t : State, exec i s = .next t ∧ t = { s with chans := t.chans } ∧
    t.chans.length = s.chans.length ∧
    ∀ (k : Nat) (c : Channel), s.chans[k]? = some c → ∃ c' : Channel, t.chans[k]? = some c' ∧
      (¬ Selected sel c → c' = c) ∧ (Selected sel c → P s c c')

/-- In every state SAMPLE completes; it changes nothing but the channels, and in a channel selected by `sel` it does
what `P` says, of the state before, the duration, the channel before and the channel after. -/
def SampleOperation (sel : Cfg → Prop) (P : State → Word → Channel → Channel → Prop) : Prop :=
  ∀ (data : Word) (s : State), ∃ t : State, exec (.sample data) s = .next t ∧ t = { s with chans := t.chans } ∧
    t.chans.length = s.chans.length ∧
    ∀ (k : Nat) (c : Channel), s.chans[k]? = some c → Selected sel c → ∃ c' : Channel, t.chans[k]? = some c' ∧
      c'.cfg = c.cfg ∧ P s (duration s.sampleW data) c c'

/-- The framer's state as a valid bit finds it (spec/43_framer.md R137, R138): START_VALUES if the cursor is 0 or the
bit is not in-stream, else the telegram in progress. -/
def telegramEntry (cfg : Cfg) (f : FrmState) (bit : BitBus) : FrmState :=
  if f.cursor = 0#6 ∨ bit.instream = false then
    { cursor := 0, fld := Eight.replicate 0, ckAcc := cfg.ckInit, ckNib := 0, ckCnt := 0, par := 0 }
  else f

/-- The bit is refused by the preamble validator at the entry's cursor (spec/43_framer.md R140). -/
def PreambleRefuses (cfg : Cfg) (e : FrmState) (bit : BitBus) : Prop :=
  cfg.preMask.getLsbD e.cursor.toNat = true ∧ bit.value ≠ cfg.preVal.getLsbD e.cursor.toNat

/-- The decoder state of a Biphase-Mark channel after the durations, oldest first. -/
def bmcRun (cfg : Cfg) (dec : DecState) (ds : List Word) : DecState :=
  ds.foldl (fun dec d => (bmcDecode cfg dec d.toNat (matchBits d cfg.win)).2) dec

/-- The framer state after the bits, oldest first. -/
def frameRun (cfg : Cfg) (f : FrmState) (bits : List BitBus) : FrmState :=
  bits.foldl (fun f bit => (frameApply cfg f bit 0).frm) f

/-- The suppressor's emit decisions for the messages, oldest first. -/
def emissions (policy : Cfg → DedupState → Message → DedupResult) (cfg : Cfg) (dd : DedupState) (ms : List Message) :
    List Bool :=
  match ms with
  | [] => []
  | m :: rest => (policy cfg dd m).emit :: emissions policy cfg (policy cfg dd m).dd rest

/-- The suppressor's state after the messages, oldest first. -/
def dedupRun (policy : Cfg → DedupState → Message → DedupResult) (cfg : Cfg) (dd : DedupState) (ms : List Message) :
    DedupState := ms.foldl (fun dd m => (policy cfg dd m).dd) dd

/-- The compared fields of two messages are equal (spec/44_duplicate_suppressor.md R171). -/
def Identical (cfg : Cfg) (u v : Eight Word) : Prop :=
  ∀ i, (cfg.fld.get i).en = true → (cfg.fld.get i).cmp = true → u.get i = v.get i

/-- Each message is field-identical to the one before it and comes less than T after it, the time difference
saturated at 0 (spec/44_duplicate_suppressor.md R171 to R173, R182). -/
def RepeatsOf (cfg : Cfg) (m : Message) (ms : List Message) : Prop :=
  match ms with
  | [] => True
  | n :: rest => Identical cfg n.out m.out ∧ n.ts.toNat - m.ts.toNat < cfg.ddInterval.toNat ∧ RepeatsOf cfg n rest

/-- The bits at the offsets that feed the check unit, of a telegram's bits from offset 0 on (spec/43_framer.md R144). -/
def maskedBits (cfg : Cfg) (bits : List Bool) : List Bool :=
  (bits.zipIdx.filter fun p => cfg.ckMask.getLsbD p.2).map Prod.fst

/-- The sum of the nibbles of the bits, four at a time from the first, most significant bit first; one to three bits
left over do not count (spec/43_framer.md R145). -/
def nibbleSum (bits : List Bool) : Nat :=
  match bits with
  | a :: b :: c :: d :: rest => 8 * a.toNat + 4 * b.toNat + 2 * c.toNat + d.toNat + nibbleSum rest
  | _ => 0

/-- The last four bits as a number, the most recent in bit 0 (`ck_nib`, spec/10_state.md R40). -/
def lastNibble (bits : List Bool) : Nat := bits.foldl (fun n b => (2 * n + b.toNat) % 16) 0

end Sys2Proof.Machine
end

