-- ==== Sys2Proof/Certificates/Slice0/Obligations.lean ====
section
/-! DEFINITION. The statements for the provers, from the numbered rules of spec/. Each docstring names the rules it
formalises, and what of it is the model's own choice. -/

open Sys2Proof Sys2Proof.Machine

/-! ## Encoding and decoding -/

/-- Decoding and encoding agree for every instruction with every operand, in both directions (R75, R80). -/
def Obligations.DecodeAndEncodeAgree : Prop :=
  (∀ i : Instr, decode (encode i) = .ok i) ∧ (∀ (w : OpWord) (i : Instr), decode w = .ok i → encode i = w)

/-- The command in a 34-bit word is told by R75's match and mask values, and its data are bits 31:0 (R75). -/
def Obligations.CommandIsToldByMatchAndMask : Prop :=
  ∀ w : BitVec 34,
    (w &&& 0x300000000#34 = 0x000000000#34 → decode (.cmd w) = .ok (.nop (BitVec.ofNat 32 w.toNat))) ∧
    (w &&& 0x300000000#34 = 0x100000000#34 → decode (.cmd w) = .ok (.sample (BitVec.ofNat 32 w.toNat))) ∧
    (w &&& 0x300000000#34 = 0x200000000#34 → decode (.cmd w) = .ok (.rsv2 (BitVec.ofNat 32 w.toNat))) ∧
    (w &&& 0x300000000#34 = 0x300000000#34 → decode (.cmd w) = .ok (.rsv3 (BitVec.ofNat 32 w.toNat)))

/-- The words the spec writes out decode to the commands it gives them (R185, R186, R187, and the selector codes of
R80's table). -/
def Obligations.WordsOfTheSpecDecode : Prop :=
  decode (.cmd 0x000000000#34) = .ok (.nop 0) ∧
  decode (.cmd 0x1000001F4#34) = .ok (.sample 500) ∧
  decode (.cmd 0x1FF0001F4#34) = .ok (.sample 0xFF0001F4#32) ∧
  decode (.cmd 0x200000000#34) = .ok (.rsv2 0) ∧
  decode (.cmd 0x312345678#34) = .ok (.rsv3 0x12345678#32) ∧
  decode .classify = .ok .winMatch ∧ decode .frame = .ok .frameApply ∧
  decode (.decodeSel 0b00#2) = .ok .psDecode ∧ decode (.decodeSel 0b01#2) = .ok .bmcDecode ∧
  decode (.checkSel 0b00#2) = .ok .chkNone ∧ decode (.checkSel 0b01#2) = .ok .chkNibbleSub ∧
  decode (.checkSel 0b10#2) = .ok .chkXorParity ∧
  decode (.dedupSel false) = .ok .dedupSuppress ∧ decode (.dedupSel true) = .ok .dedupLock

/-- A reserved configuration code stands for no unit operation, makes the configuration illegal and shows on
`o_cfg_err` of an enabled channel; a legal configuration selects a unit operation at every stage (R80, R83). -/
def Obligations.ReservedSelectorsAreRejected : Prop :=
  (∀ cfg : Cfg, legal cfg = true → ∀ w ∈ cfg.stageCodes, ∃ i, decode w = .ok i) ∧
  (∀ c : Channel, c.cfg.family = 0b10#2 ∨ c.cfg.family = 0b11#2 →
    decode (.decodeSel c.cfg.family) = .error (.reservedFamily c.cfg.family) ∧ legal c.cfg = false ∧
    c.oCfgErr = c.cfg.en) ∧
  (∀ c : Channel, c.cfg.ckScheme = 0b11#2 →
    decode (.checkSel c.cfg.ckScheme) = .error (.reservedScheme c.cfg.ckScheme) ∧ legal c.cfg = false ∧
    c.oCfgErr = c.cfg.en)

/-! ## The cycle -/

/-- A step runs the command the host presents, on the state whose timestamp port takes the cycle's value and whose
cycle is taken off the list; with nothing presented it runs NOP (R75, R229; the list is the model's, log entry 1). -/
def Obligations.StepRunsTheCommandPresented : Prop :=
  (∀ (s : State) (c : HostCycle) (rest : List HostCycle) (i : Instr), s.pending = c :: rest → c.rst = false →
    c.cfg = none → decode (.cmd c.cmd) = .ok i → step s = exec i { s with tsNow := c.ts, pending := rest }) ∧
  (∀ s : State, s.pending = [] → step s = exec (.nop 0) s)

/-- Reset wins over the command and gives every element its value of R53; the command, the timestamp and the state
before do not matter, and a second reset cycle changes nothing but the ports (R220, R222). -/
def Obligations.ResetWinsOverTheCommand : Prop :=
  ∀ (s : State) (c : HostCycle) (rest : List HostCycle), s.pending = c :: rest → c.rst = true → c.cfg = none →
    ∃ t : State, step s = .next t ∧
      t = { sampleW := s.sampleW
            chans := s.chans.map fun ch =>
              { cfg := ch.cfg
                dec := { ps := .idle, half := false, cont := false }
                frm := { cursor := 0, fld := ⟨0, 0, 0, 0, 0, 0, 0, 0⟩, ckAcc := 0, ckNib := 0, ckCnt := 0, par := 0 }
                dd := { prevValid := false, prevFld := ⟨0, 0, 0, 0, 0, 0, 0, 0⟩, prevTs := 0, lock := false }
                anom := false
                out := { bit := 0, frmValid := false, frmFld := ⟨0, 0, 0, 0, 0, 0, 0, 0⟩, frmTs := 0,
                         frmCkOk := false, emit := false, outFld := ⟨0, 0, 0, 0, 0, 0, 0, 0⟩, outTs := 0,
                         evtResync := false, evtAbort := false, evtCkfail := false, evtDup := false, anom := false }
                nets := Nets.idle }
            cmdErr := false
            oCmdErr := false
            tsNow := c.ts
            pending := rest } ∧
      ∀ (c2 : HostCycle) (rest2 : List HostCycle), rest = c2 :: rest2 → c2.rst = true → c2.cfg = none →
        step t = .next { t with tsNow := c2.ts, pending := rest2 }

/-- The state right after reset holds the values of R53 in every channel. SAMPLE_W, the number of channels, the
configuration driven and the empty list of cycles are the model's choice (log entries 1 to 3) and are not stated. -/
def Obligations.ResetLeavesTheSpecValues : Prop :=
  State.reset.cmdErr = false ∧ State.reset.oCmdErr = false ∧
  ∀ c ∈ State.reset.chans,
    c.dec.ps = .idle ∧ c.dec.half = false ∧ c.dec.cont = false ∧
    c.frm.cursor = 0#6 ∧ (∀ f, c.frm.fld.get f = 0) ∧ c.frm.ckAcc = 0 ∧ c.frm.ckNib = 0 ∧ c.frm.ckCnt = 0#2 ∧
    c.frm.par = 0 ∧
    c.dd.prevValid = false ∧ (∀ f, c.dd.prevFld.get f = 0) ∧ c.dd.prevTs = 0 ∧ c.dd.lock = false ∧ c.anom = false ∧
    c.out.bit = 0b000#3 ∧ c.out.frmValid = false ∧ c.out.emit = false ∧ c.out.evtResync = false ∧
    c.out.evtAbort = false ∧ c.out.evtCkfail = false ∧ c.out.evtDup = false ∧ (∀ f, c.out.frmFld.get f = 0) ∧
    c.out.frmTs = 0 ∧ c.out.frmCkOk = false ∧ (∀ f, c.out.outFld.get f = 0) ∧ c.out.outTs = 0 ∧ c.out.anom = false

/-- A change of `cfg` in a cycle with `rst = 0` is refused by name, and in a reset cycle it is taken: the configuration
in force is the new one, and every element is at its reset value (R220, R223). The clause on a cycle with `rst = 0` that
drives the records the channels already have, that it is no change and its command runs, is the model's own choice (log
entry 6), as is the list of cycles (log entry 1); R223 does not say it. -/
def Obligations.ConfigurationChangesOnlyUnderReset : Prop :=
  ∀ (s : State) (c : HostCycle) (rest : List HostCycle) (l : List Cfg), s.pending = c :: rest → c.cfg = some l →
    l.length = s.chans.length →
    (c.rst = false → l ≠ s.chans.map Channel.cfg → step s = .refused .cfgChangedWhileRunning) ∧
    (c.rst = false → l = s.chans.map Channel.cfg →
      step s = exec (decodeCommand c.cmd) { s with tsNow := c.ts, pending := rest }) ∧
    (c.rst = true → ∃ t, step s = .next t ∧ t.chans = l.map Channel.initial ∧ t.cmdErr = false ∧ t.oCmdErr = false)

/-- No condition inside the block stops it: every instruction completes in every state, and a step ends in a next
state unless the host changes `cfg` while `rst = 0`, which is not a condition inside the block (R200, R223). -/
def Obligations.NothingStopsTheBlock : Prop :=
  (∀ (i : Instr) (s : State), ∃ t, exec i s = .next t) ∧
  (∀ s : State, (∃ t, step s = .next t) ∨
    (step s = .refused .cfgChangedWhileRunning ∧
      ∃ (c : HostCycle) (rest : List HostCycle) (l : List Cfg), s.pending = c :: rest ∧ c.rst = false ∧
        c.cfg = some l ∧ ∃ (k : Nat) (ch : Channel) (cfg : Cfg), s.chans[k]? = some ch ∧ l[k]? = some cfg ∧
          cfg ≠ ch.cfg))

/-! ## Commands -/

/-- NOP: no state element changes, every strobe and `o_bit` are 0, data outputs and sticky flags hold; the data and
`ts_now` are not read (R185). -/
def Obligations.NopClearsStrobesAndHoldsTheRest : Prop :=
  ∀ (data : Word) (s : State), ∃ t : State, exec (.nop data) s = .next t ∧
    t = { s with chans := s.chans.map fun c =>
      { c with out :=
        { bit := 0, frmValid := false, frmFld := c.out.frmFld, frmTs := c.out.frmTs, frmCkOk := c.out.frmCkOk,
          emit := false, outFld := c.out.outFld, outTs := c.out.outTs, evtResync := false, evtAbort := false,
          evtCkfail := false, evtDup := false, anom := c.out.anom } } } ∧
    ∀ (data' : Word) (ts : Timestamp), exec (.nop data') { s with tsNow := ts } = .next { t with tsNow := ts }

/-- The reserved commands act as NOP and set the sticky `cmd_err`, which `o_cmd_err` shows (R81, R187). -/
def Obligations.ReservedCommandsActAsNopAndSetCmdErr : Prop :=
  ∀ (data : Word) (s : State), ∃ n : State, exec (.nop data) s = .next n ∧
    exec (.rsv2 data) s = .next { n with cmdErr := true, oCmdErr := true } ∧
    exec (.rsv3 data) s = .next { n with cmdErr := true, oCmdErr := true } ∧
    ∀ data' : Word, exec (.rsv2 data') s = exec (.rsv2 data) s ∧ exec (.rsv3 data') s = exec (.rsv3 data) s

/-- A SAMPLE is the unit operations of R80's table, one after the other, each in the channels that select it, from the
duration on the channels' nets to the output registers, which take what the last lines of R186 say, output by output;
in a channel that is disabled or illegal only `o_bit` and the strobes fall to 0 (R80, R186, R188, R191; FRAME_APPLY runs
the check unit inside it). That the unit operations are instructions over nets is the model's choice (log entry 4). -/
def Obligations.SampleIsTheUnitOperationsInOrder : Prop :=
  ∀ (data : Word) (s : State), ∃ s1 s2 s3 s4 s5 s6 : State,
    exec .winMatch
      (s.onSelected (fun _ => true) fun c => { c with nets := { Nets.idle with d := duration s.sampleW data } }) =
        .next s1 ∧
    exec .psDecode s1 = .next s2 ∧ exec .bmcDecode s2 = .next s3 ∧ exec .frameApply s3 = .next s4 ∧
    exec .dedupSuppress s4 = .next s5 ∧ exec .dedupLock s5 = .next s6 ∧
    exec (.sample data) s = .next (s6.onEach fun c =>
      if c.cfg.en = true ∧ legal c.cfg = true then
        { c with
          out :=
            { bit := BitVec.ofBool c.nets.bit.instream ++ BitVec.ofBool c.nets.bit.valid ++
                BitVec.ofBool c.nets.bit.value
              frmValid := c.nets.msg.isSome
              frmFld := (c.nets.msg.map Message.out).getD c.out.frmFld
              frmTs := (c.nets.msg.map Message.ts).getD c.out.frmTs
              frmCkOk := c.nets.msg.isSome || c.out.frmCkOk
              emit := c.nets.emit
              outFld := if c.nets.emit then (c.nets.msg.map Message.out).getD c.out.outFld else c.out.outFld
              outTs := if c.nets.emit then (c.nets.msg.map Message.ts).getD c.out.outTs else c.out.outTs
              evtResync := c.nets.resync
              evtAbort := c.nets.abort
              evtCkfail := c.nets.ckfail
              evtDup := c.nets.dup
              anom := c.anom }
          nets := Nets.idle }
      else
        { c with
          out :=
            { bit := 0b000#3, frmValid := false, frmFld := c.out.frmFld, frmTs := c.out.frmTs
              frmCkOk := c.out.frmCkOk, emit := false, outFld := c.out.outFld, outTs := c.out.outTs
              evtResync := false, evtAbort := false, evtCkfail := false, evtDup := false, anom := c.out.anom } })

/-- The duration is the low SAMPLE_W bits of the data, zero-extended; the bits above are ignored (R77). -/
def Obligations.DurationIsTheLowBits : Prop :=
  (∀ (sampleW : Nat) (data : Word) (j : Nat),
    (duration sampleW data).getLsbD j = (decide (j < sampleW) && data.getLsbD j)) ∧
  (∀ data : Word, (duration 24 data).toNat = data.toNat % 16777216) ∧
  (∀ (s : State) (a b : Word), (∀ j < s.sampleW, a.getLsbD j = b.getLsbD j) →
    exec (.sample a) s = exec (.sample b) s)

/-- A disabled channel, and an enabled one with an illegal configuration, keeps its state under every instruction;
after a command its strobes and `o_bit` are 0; `o_cfg_err` is 0 for the disabled and 1 for the illegal one; the other
channels do as they would with another channel in its place (R188, R191). -/
def Obligations.InertChannelsKeepTheirState : Prop :=
  ∀ (i : Instr) (s : State) (k : Nat) (c : Channel), s.chans[k]? = some c →
    (c.cfg.en = false ∨ legal c.cfg = false) →
    ∃ (t : State) (c' : Channel), exec i s = .next t ∧ t.chans[k]? = some c' ∧
      c'.cfg = c.cfg ∧ c'.dec = c.dec ∧ c'.frm = c.frm ∧ c'.dd = c.dd ∧ c'.anom = c.anom ∧
      (i.isCommand = true → c'.out.bit = 0b000#3 ∧ c'.out.frmValid = false ∧ c'.out.emit = false ∧
        c'.out.evtResync = false ∧ c'.out.evtAbort = false ∧ c'.out.evtCkfail = false ∧ c'.out.evtDup = false) ∧
      (c.cfg.en = false → c'.oCfgErr = false) ∧ (c.cfg.en = true → c'.oCfgErr = true) ∧
      ∀ (d : Channel) (t2 : State), exec i { s with chans := s.chans.set k d } = .next t2 →
        ∀ j, j ≠ k → t2.chans[j]? = t.chans[j]?

/-- No channel reads another's state: two blocks that agree on one channel, on SAMPLE_W and on `ts_now` agree on that
channel after every instruction, whatever their other channels hold (R68, R209). -/
def Obligations.ChannelsDoNotReadEachOther : Prop :=
  ∀ (i : Instr) (s u : State) (k : Nat), s.sampleW = u.sampleW → s.tsNow = u.tsNow → s.chans[k]? = u.chans[k]? →
    ∃ s' u' : State, exec i s = .next s' ∧ exec i u = .next u' ∧ s'.chans[k]? = u'.chans[k]?

/-- A sticky flag, once set, stays 1 until `rst` (R52). -/
def Obligations.StickyFlagsStayUntilReset : Prop :=
  ∀ s t : State, step s = .next t → s.cycle.rst = false →
    (s.cmdErr = true → t.cmdErr = true) ∧
    (∀ (k : Nat) (c c' : Channel), s.chans[k]? = some c → t.chans[k]? = some c' → c.anom = true → c'.anom = true)

/-- After a command the data outputs of a message hold unless its strobe is 1, and `o_bit` is 0b000 unless a SAMPLE
decoded a bit (R51). -/
def Obligations.DataOutputsHoldWithoutTheirStrobe : Prop :=
  ∀ (i : Instr) (s : State), i.isCommand = true → ∃ t : State, exec i s = .next t ∧
    ∀ (k : Nat) (c : Channel), s.chans[k]? = some c → ∃ c' : Channel, t.chans[k]? = some c' ∧
      (c'.out.frmValid = false →
        c'.out.frmFld = c.out.frmFld ∧ c'.out.frmTs = c.out.frmTs ∧ c'.out.frmCkOk = c.out.frmCkOk) ∧
      (c'.out.emit = false → c'.out.outFld = c.out.outFld ∧ c'.out.outTs = c.out.outTs) ∧
      ((∀ data, i ≠ .sample data) → c'.out.bit = 0b000#3) ∧
      (c'.out.bit.getLsbD 1 = false → c'.out.bit = 0b000#3)

/-- A sample's strobes in an active channel, from every state: abort, failed check and message exclude each other, a
message is emitted or a duplicate and never both, a resync needs a cursor above 0 and a valid bit (R203). -/
def Obligations.SampleStrobesExcludeEachOther : Prop :=
  SampleOperation (fun _ => True) fun _ _ c c' =>
    strobesAgree c'.out ∧
    (c'.out.evtResync = true → c.frm.cursor ≠ 0#6 ∧ c'.out.bit.getLsbD 1 = true ∧ c'.out.bit.getLsbD 2 = false) ∧
    (c'.out.evtAbort = true ∨ c'.out.evtCkfail = true ∨ c'.out.frmValid = true → c'.out.bit.getLsbD 1 = true)

/-- NOP cycles between samples change nothing: a SAMPLE after a NOP leaves what the SAMPLE alone leaves (R185, R226). -/
def Obligations.NopBetweenSamplesIsInvisible : Prop :=
  ∀ (data data' : Word) (s : State), ∃ n : State, exec (.nop data) s = .next n ∧
    exec (.sample data') n = exec (.sample data') s

/-- With nothing presented, which the model takes as NOP (log entry 1), all unit state and the data outputs are kept for
any number of cycles (R185, R211). -/
def Obligations.StateIsKeptAcrossIdleCycles : Prop :=
  ∀ (k : Nat) (s : State), s.pending = [] → ∃ t : State, Host.Core.run Sys2Proof.core k s = .next t ∧
    t = { s with chans := t.chans } ∧
    ∀ (j : Nat) (c : Channel), s.chans[j]? = some c → ∃ c' : Channel, t.chans[j]? = some c' ∧
      c'.cfg = c.cfg ∧ c'.dec = c.dec ∧ c'.frm = c.frm ∧ c'.dd = c.dd ∧ c'.anom = c.anom ∧
      c'.out.frmFld = c.out.frmFld ∧ c'.out.frmTs = c.out.frmTs ∧ c'.out.frmCkOk = c.out.frmCkOk ∧
      c'.out.outFld = c.out.outFld ∧ c'.out.outTs = c.out.outTs ∧ c'.out.anom = c.out.anom

/-- LEGAL(cfg) is the conjunction of the nine conditions L1 to L9 (R190). -/
def Obligations.LegalIsTheNineConditions : Prop :=
  ∀ cfg : Cfg, legal cfg = true ↔
    (cfg.family = 0b00#2 ∨ cfg.family = 0b01#2) ∧
    (1 ≤ cfg.nBits.toNat ∧ cfg.nBits.toNat ≤ 64) ∧
    (∀ f, (cfg.fld.get f).en = true → 1 ≤ (cfg.fld.get f).wid.toNat ∧ (cfg.fld.get f).wid.toNat ≤ 32 ∧
      (cfg.fld.get f).off.toNat + (cfg.fld.get f).wid.toNat ≤ cfg.nBits.toNat) ∧
    (∀ f g, f ≠ g → (cfg.fld.get f).en = true → (cfg.fld.get g).en = true → ∀ c : Nat,
      ¬ ((cfg.fld.get f).off.toNat ≤ c ∧ c < (cfg.fld.get f).off.toNat + (cfg.fld.get f).wid.toNat ∧
         (cfg.fld.get g).off.toNat ≤ c ∧ c < (cfg.fld.get g).off.toNat + (cfg.fld.get g).wid.toNat)) ∧
    (∀ f, (cfg.fld.get f).en = true → (cfg.fld.get f).sext = true →
      (cfg.fld.get f).wid.toNat ≤ (cfg.fld.get f).sxW.toNat ∧ (cfg.fld.get f).sxW.toNat ≤ 32) ∧
    (∀ c : Nat, cfg.preMask.getLsbD c = true → c < cfg.nBits.toNat ∧
      ∀ f, ¬ ((cfg.fld.get f).en = true ∧ (cfg.fld.get f).off.toNat ≤ c ∧
        c < (cfg.fld.get f).off.toNat + (cfg.fld.get f).wid.toNat)) ∧
    cfg.ckScheme ≠ 0b11#2 ∧
    (∀ c : Nat, cfg.ckMask.getLsbD c = true → c < cfg.nBits.toNat) ∧
    (cfg.ckScheme = 0b01#2 → (cfg.fld.get cfg.ckField.toFin).en = true)

/-! ## Classifier -/

/-- WIN_MATCH: match bit i is 1 exactly when `center - tol ≤ d ≤ center + tol` on the integers, both bounds
inclusive; nothing else changes (R100). -/
def Obligations.WindowMatchIsInclusiveOnIntegers : Prop :=
  UnitOperation .winMatch (fun _ => True) fun _ c c' => ∃ m : Four Bool,
    c' = { c with nets := { c.nets with m := m } } ∧
    ∀ i : Fin 4, m.get i = true ↔
      ((c.cfg.win.get i).center.toNat : Int) - ((c.cfg.win.get i).tol.toNat : Int) ≤ (c.nets.d.toNat : Int) ∧
      (c.nets.d.toNat : Int) ≤ ((c.cfg.win.get i).center.toNat : Int) + ((c.cfg.win.get i).tol.toNat : Int)

/-- FIRST selects the first window of the list that matches, and none exactly when none does (R101). -/
def Obligations.FirstSelectsTheEarliestMatch : Prop :=
  ∀ (m : Four Bool) (order : List (Fin 4)),
    (first m order = none ↔ ∀ i ∈ order, m.get i = false) ∧
    (∀ k, first m order = some k ↔
      ∃ pre post, order = pre ++ k :: post ∧ m.get k = true ∧ ∀ i ∈ pre, m.get i = false)

/-! ## Pulse-Space decoder -/

/-- PS_DECODE's transitions, and that it changes nothing but the decoder and the bit bus (R110 to R114). -/
def Obligations.PulseSpaceDecodeTransitions : Prop :=
  UnitOperation .psDecode (fun cfg => cfg.family = 0b00#2) fun _ c c' =>
    (c.dec.ps = .idle → c.nets.m.get 0 = true →
      c' = { c with dec := { c.dec with ps := .pulseRcvd },
                    nets := { c.nets with bit := ⟨false, false, false⟩ } }) ∧
    (c.dec.ps = .idle → c.nets.m.get 0 = false →
      c' = { c with dec := { c.dec with cont := false },
                    nets := { c.nets with bit := ⟨false, false, false⟩ } }) ∧
    (c.dec.ps = .pulseRcvd → c.nets.m.get 1 = true →
      c' = { c with dec := { c.dec with ps := .idle, cont := true },
                    nets := { c.nets with bit := ⟨false, true, c.dec.cont⟩ } }) ∧
    (c.dec.ps = .pulseRcvd → c.nets.m.get 1 = false → c.nets.m.get 2 = true →
      c' = { c with dec := { c.dec with ps := .idle, cont := true },
                    nets := { c.nets with bit := ⟨true, true, c.dec.cont⟩ } }) ∧
    (c.dec.ps = .pulseRcvd → c.nets.m.get 1 = false → c.nets.m.get 2 = false →
      c' = { c with dec := { c.dec with ps := .idle, cont := false },
                    nets := { c.nets with bit := ⟨false, false, false⟩ } })

/-- A duration outside `win[0]`, `win[1]` and `win[2]` takes a Pulse-Space decoder from any state to its reset state
in that one sample, with no valid bit (R117). -/
def Obligations.PulseSpaceReturnsToItsStart : Prop :=
  SampleOperation (fun cfg => cfg.family = 0b00#2) fun _ d c c' =>
    winMatch d.toNat (c.cfg.win.get 0) = false → winMatch d.toNat (c.cfg.win.get 1) = false →
    winMatch d.toNat (c.cfg.win.get 2) = false →
      c'.dec = { c.dec with ps := .idle, cont := false } ∧ c'.out.bit = 0b000#3

/-- Each decoder leaves the other family's state element alone and does not read it: `dec_half` on a Pulse-Space
channel, `dec_ps` on a Biphase-Mark channel (R116, R129). -/
def Obligations.DecodersLeaveTheOtherFamilysElement : Prop :=
  (SampleOperation (fun cfg => cfg.family = 0b00#2) fun _ _ c c' => c'.dec.half = c.dec.half) ∧
  (SampleOperation (fun cfg => cfg.family = 0b01#2) fun _ _ c c' => c'.dec.ps = c.dec.ps) ∧
  (∀ (dec : DecState) (m : Four Bool) (h : Bool),
    psDecode { dec with half := h } m = ((psDecode dec m).1, { (psDecode dec m).2 with half := h })) ∧
  (∀ (cfg : Cfg) (dec : DecState) (d : Nat) (m : Four Bool) (p : PsState),
    bmcDecode cfg { dec with ps := p } d m = ((bmcDecode cfg dec d m).1, { (bmcDecode cfg dec d m).2 with ps := p }))

/-! ## Biphase-Mark decoder -/

/-- BMC_DECODE's cases, and that it changes nothing but the decoder and the bit bus (R120 to R126). -/
def Obligations.BiphaseMarkDecodeTransitions : Prop :=
  UnitOperation .bmcDecode (fun cfg => cfg.family = 0b01#2) fun _ c c' =>
    let discarded : Prop := c.cfg.lpfEn = true ∧
      (c.nets.d.toNat : Int) < ((c.cfg.win.get 0).center.toNat : Int) - ((c.cfg.win.get 0).tol.toNat : Int)
    (discarded → c' = { c with nets := { c.nets with bit := ⟨false, false, false⟩ } }) ∧
    (¬ discarded → c.nets.m.get 0 = true → c.dec.half = false →
      c' = { c with dec := { c.dec with half := true },
                    nets := { c.nets with bit := ⟨false, false, false⟩ } }) ∧
    (¬ discarded → c.nets.m.get 0 = true → c.dec.half = true →
      c' = { c with dec := { c.dec with half := false, cont := true },
                    nets := { c.nets with bit := ⟨true, true, c.dec.cont⟩ } }) ∧
    (¬ discarded → c.nets.m.get 0 = false → c.nets.m.get 1 = true →
      c' = { c with dec := { c.dec with half := false, cont := true },
                    nets := { c.nets with bit := ⟨false, true, c.dec.cont⟩ } }) ∧
    (¬ discarded → c.nets.m.get 0 = false → c.nets.m.get 1 = false →
      c' = { c with dec := { c.dec with half := false, cont := false },
                    nets := { c.nets with bit := ⟨false, false, false⟩ } })

/-- The low-pass filter: with `lpf_en = 1` a sample below `center - tol` of `win[0]` changes no state element of the
channel and gives no bit; with `tol ≥ center` no duration is discarded, whatever `lpf_en` is (R121, R131). -/
def Obligations.LowPassFilterDiscardsTheSample : Prop :=
  (SampleOperation (fun cfg => cfg.family = 0b01#2 ∧ cfg.lpfEn = true) fun _ d c c' =>
    (d.toNat : Int) < ((c.cfg.win.get 0).center.toNat : Int) - ((c.cfg.win.get 0).tol.toNat : Int) →
      c'.dec = c.dec ∧ c'.frm = c.frm ∧ c'.dd = c.dd ∧ c'.anom = c.anom ∧ c'.out.bit = 0b000#3) ∧
  (∀ (cfg : Cfg) (d : Nat), (cfg.win.get 0).center.toNat ≤ (cfg.win.get 0).tol.toNat → filtered cfg d = false)

/-- A duration outside both windows takes a Biphase-Mark decoder from any state to its reset state in one sample with
no valid bit, unless the filter is on and the duration is below its threshold, which leaves the state as it was
(R130). -/
def Obligations.BiphaseMarkReturnsToItsStart : Prop :=
  SampleOperation (fun cfg => cfg.family = 0b01#2) fun _ d c c' =>
    winMatch d.toNat (c.cfg.win.get 0) = false → winMatch d.toNat (c.cfg.win.get 1) = false →
    c'.out.bit = 0b000#3 ∧
    (c.cfg.lpfEn = false ∨ windowLo (c.cfg.win.get 0) ≤ (d.toNat : Int) →
      c'.dec = { c.dec with half := false, cont := false }) ∧
    (c.cfg.lpfEn = true → (d.toNat : Int) < windowLo (c.cfg.win.get 0) → c'.dec = c.dec)

/-- The instream bit of every valid bit of a Biphase-Mark decoder is `dec_cont` before the sample; and `dec_cont` is 1
exactly when a valid bit has been decoded since reset and no sample after it broke the stream, a sample that matches
neither window and is not discarded; discarded samples do not break it (R127). -/
def Obligations.ContinuityRemembersTheLastBit : Prop :=
  (∀ (cfg : Cfg) (dec : DecState) (d : Nat) (m : Four Bool), (bmcDecode cfg dec d m).1.valid = true →
    (bmcDecode cfg dec d m).1.instream = dec.cont) ∧
  ∀ (cfg : Cfg) (ds : List Word),
    (bmcRun cfg DecState.reset ds).cont = true ↔
      ∃ (pre : List Word) (d : Word) (post : List Word), ds = pre ++ d :: post ∧
        (bmcDecode cfg (bmcRun cfg DecState.reset pre) d.toNat (matchBits d cfg.win)).1.valid = true ∧
        ∀ e ∈ post, filtered cfg e.toNat = true ∨ winMatch e.toNat (cfg.win.get 0) = true ∨
          winMatch e.toNat (cfg.win.get 1) = true

/-! ## Framer -/

/-- A bit with `valid = 0` leaves every framer state element unchanged and produces no message and no event (R136). -/
def Obligations.InvalidBitLeavesTheFramer : Prop :=
  UnitOperation .frameApply (fun _ => True) fun _ c c' => c.nets.bit.valid = false →
    c' = { c with nets := { c.nets with msg := none, resync := false, abort := false, ckfail := false } }

/-- From any framer state, the first valid bit that is not in-stream, or that finds the cursor at 0, gives what it gives
from START_VALUES at cursor 0, whatever the discarded telegram held; only the resync event tells that the cursor was
above 0 (R137, R138, R157). -/
def Obligations.ResyncForgetsTheTelegram : Prop :=
  ∀ (cfg : Cfg) (f : FrmState) (bit : BitBus) (ts : Timestamp), bit.valid = true →
    (bit.instream = false ∨ f.cursor = 0#6) →
    frameApply cfg f bit ts =
      { frameApply cfg { cursor := 0, fld := ⟨0, 0, 0, 0, 0, 0, 0, 0⟩, ckAcc := cfg.ckInit, ckNib := 0, ckCnt := 0,
                         par := 0 } bit ts with
        resync := decide (f.cursor ≠ 0#6) }

/-- A preamble position whose bit is not the expected one aborts the telegram: cursor 0, no message, no failed check
even at the last offset, fields and accumulators as before the bit was placed (R140, R151). -/
def Obligations.PreambleMismatchAborts : Prop :=
  UnitOperation .frameApply (fun _ => True) fun _ c c' =>
    let e := telegramEntry c.cfg c.frm c.nets.bit
    c.nets.bit.valid = true → PreambleRefuses c.cfg e c.nets.bit →
    c' = { c with
           frm := { e with cursor := 0 }
           nets := { c.nets with
                     msg := none
                     resync := decide (c.frm.cursor ≠ 0#6) && !c.nets.bit.instream
                     abort := true
                     ckfail := false } }

/-- A placed bit goes to the one bit position of the field that covers the effective cursor, and to no other bit of
any field register; at an offset no field covers it goes nowhere; then the cursor advances by one or wraps at the last
offset (R141, R142, R155). -/
def Obligations.PlacedBitGoesToItsField : Prop :=
  UnitOperation .frameApply (fun _ => True) fun _ c c' =>
    let e := telegramEntry c.cfg c.frm c.nets.bit
    c.nets.bit.valid = true → ¬ PreambleRefuses c.cfg e c.nets.bit → e.cursor.toNat < c.cfg.nBits.toNat →
    (∀ (i : Fin 8) (p : Nat), (c'.frm.fld.get i).getLsbD p =
      if (c.cfg.fld.get i).en = true ∧ (c.cfg.fld.get i).off.toNat ≤ e.cursor.toNat ∧
          e.cursor.toNat < (c.cfg.fld.get i).off.toNat + (c.cfg.fld.get i).wid.toNat ∧
          p = (if (c.cfg.fld.get i).msbFirst then
                (c.cfg.fld.get i).wid.toNat - 1 - (e.cursor.toNat - (c.cfg.fld.get i).off.toNat)
              else e.cursor.toNat - (c.cfg.fld.get i).off.toNat)
      then c.nets.bit.value else (e.fld.get i).getLsbD p) ∧
    (e.cursor.toNat + 1 < c.cfg.nBits.toNat → c'.frm.cursor.toNat = e.cursor.toNat + 1) ∧
    (e.cursor.toNat + 1 = c.cfg.nBits.toNat → c'.frm.cursor = 0#6)

/-- FRAME_APPLY runs the check unit that the configuration selects: on the telegram as the bit finds it with the field
written, the unit operation of the check scheme leaves the accumulators FRAME_APPLY leaves, and at the last offset its
verdict decides between a message and a failed check (R135, R144, R150, R154). That the check operation is an
instruction of its own, at the offset in `cursor` and with its verdict on the net `ckPass`, is the model's own choice
(log entry 4). -/
def Obligations.FrameApplyRunsTheSelectedCheck : Prop :=
  ∀ (s : State) (k : Nat) (c : Channel) (i : Instr), s.chans[k]? = some c → Selected (fun _ => True) c →
    decode (.checkSel c.cfg.ckScheme) = .ok i → c.nets.bit.valid = true →
    let e := telegramEntry c.cfg c.frm c.nets.bit
    ¬ PreambleRefuses c.cfg e c.nets.bit →
    let placed : Channel := { c with frm := { e with fld := fieldWrite c.cfg e.fld e.cursor.toNat c.nets.bit.value } }
    ∃ (t u : State) (c1 c2 : Channel), exec .frameApply s = .next t ∧ t.chans[k]? = some c1 ∧
      exec i { s with chans := s.chans.set k placed } = .next u ∧
      u.chans[k]? = some c2 ∧
      c1.frm.ckAcc = c2.frm.ckAcc ∧ c1.frm.ckNib = c2.frm.ckNib ∧ c1.frm.ckCnt = c2.frm.ckCnt ∧
      c1.frm.par = c2.frm.par ∧ c1.frm.fld = c2.frm.fld ∧
      (e.cursor.toNat + 1 = c.cfg.nBits.toNat →
        c1.nets.ckfail = !c2.nets.ckPass ∧ c1.nets.msg.isSome = c2.nets.ckPass)

/-- The last bit of a telegram: with a passing check a message with the fields sign-extended and the timestamp of the
cycle, without one no message and the failed-check event, and the cursor at 0 either way (R150, R154). -/
def Obligations.LastBitCompletesTheTelegram : Prop :=
  UnitOperation .frameApply (fun _ => True) fun s c c' =>
    let e := telegramEntry c.cfg c.frm c.nets.bit
    c.nets.bit.valid = true → ¬ PreambleRefuses c.cfg e c.nets.bit → e.cursor.toNat + 1 = c.cfg.nBits.toNat →
    let pass : Prop :=
      (c.cfg.ckScheme = 0b01#2 → c'.frm.ckAcc = (c'.frm.fld.get c.cfg.ckField.toFin).extractLsb' 0 4) ∧
      (c.cfg.ckScheme = 0b10#2 → c'.frm.par.getLsbD 0 = c.cfg.parExp.getLsbD 0 ∧
        (c.cfg.parMode = true → c'.frm.par.getLsbD 1 = c.cfg.parExp.getLsbD 1))
    c'.frm.cursor = 0#6 ∧ c'.nets.abort = false ∧
    (pass → c'.nets.msg = some ⟨sextAll c.cfg c'.frm.fld, s.tsNow⟩ ∧ c'.nets.ckfail = false) ∧
    (¬ pass → c'.nets.msg = none ∧ c'.nets.ckfail = true)

/-- A bit that is not the last of its telegram gives no message and no failed check, and FRAME_APPLY changes nothing
but the framer and its nets (R135, R155). -/
def Obligations.BitBeforeTheLastGivesNoMessage : Prop :=
  UnitOperation .frameApply (fun _ => True) fun _ c c' =>
    let e := telegramEntry c.cfg c.frm c.nets.bit
    (∃ (f : FrmState) (msg : Option Message) (r a k : Bool),
      c' = { c with frm := f, nets := { c.nets with msg := msg, resync := r, abort := a, ckfail := k } }) ∧
    (c.nets.bit.valid = true → e.cursor.toNat + 1 ≠ c.cfg.nBits.toNat →
      c'.nets.msg = none ∧ c'.nets.ckfail = false ∧
      c'.nets.resync = (decide (c.frm.cursor ≠ 0#6) && !c.nets.bit.instream))

/-- A whole telegram: fed its N bits, in-stream after the first, with every preamble position as expected, the framer
ends at cursor 0, its field registers hold exactly the bits received at their offsets and nothing else, and it produces
the message of these fields, sign-extended, unless the check fails; with no check it always does (R143, R149, R150,
R153). -/
def Obligations.WholeTelegramCarriesItsBits : Prop :=
  ∀ (cfg : Cfg) (f : FrmState) (bits : List Bool) (i0 : Bool) (ts : Timestamp), legal cfg = true →
    f.cursor = 0#6 → bits.length = cfg.nBits.toNat →
    (∀ c < bits.length, cfg.preMask.getLsbD c = true → bits[c]? = some (cfg.preVal.getLsbD c)) →
    let buses : List BitBus := bits.mapIdx fun j b => ⟨b, true, if j = 0 then i0 else true⟩
    ∀ last : BitBus, buses.getLast? = some last →
    let r := frameApply cfg (frameRun cfg f buses.dropLast) last ts
    r.frm.cursor = 0#6 ∧ r.abort = false ∧ r.resync = false ∧
    (∀ (i : Fin 8) (j : Nat), (cfg.fld.get i).en = true → j < (cfg.fld.get i).wid.toNat →
      bits[(cfg.fld.get i).off.toNat + j]? = some ((r.frm.fld.get i).getLsbD
        (if (cfg.fld.get i).msbFirst then (cfg.fld.get i).wid.toNat - 1 - j else j))) ∧
    (∀ i, fieldFits (cfg.fld.get i) (r.frm.fld.get i)) ∧
    (r.msg = some ⟨sextAll cfg r.frm.fld, ts⟩ ∧ r.ckfail = false ∨ r.msg = none ∧ r.ckfail = true) ∧
    (cfg.ckScheme = 0b00#2 → r.ckfail = false)

/-- The message value of a field: the raw bits below `wid`, copies of the sign bit from `wid` up to `sx_w` if the field
is signed, zero above; a field that does not exist is 0 (R152, R153). -/
def Obligations.SignExtensionCopiesTheSignBit : Prop :=
  (∀ (fc : FieldCfg) (v : Word) (j : Nat), fc.en = true → 1 ≤ fc.wid.toNat → fc.wid.toNat ≤ 32 →
    v.toNat < 2 ^ fc.wid.toNat → (fc.sext = true → fc.wid.toNat ≤ fc.sxW.toNat ∧ fc.sxW.toNat ≤ 32) →
    (messageField fc v).getLsbD j =
      if j < fc.wid.toNat then v.getLsbD j
      else if j < fc.sxW.toNat then fc.sext && v.getLsbD (fc.wid.toNat - 1)
      else false) ∧
  (∀ (fc : FieldCfg) (v : Word), fc.en = false → messageField fc v = 0) ∧
  (∀ (cfg : Cfg) (fld : Eight Word) (i : Fin 8), (sextAll cfg fld).get i = messageField (cfg.fld.get i) (fld.get i))

/-! ## Check unit -/

/-- CHK_NIBBLE_SUB at an offset: a masked bit is shifted in and counted, every fourth subtracts the nibble modulo 16
(R145), and the verdict compares with the low four bits of the checksum field (R146); an unmasked offset leaves the
accumulators (R144). That the check operation runs alone, acts at the offset in `cursor`, puts its verdict on the net
`ckPass` and does nothing without a valid bit is the model's own choice (log entry 4), not the rules'. -/
def Obligations.NibbleChecksumUnit : Prop :=
  UnitOperation .chkNibbleSub (fun cfg => cfg.ckScheme = 0b01#2) fun _ c c' =>
    (c.nets.bit.valid = false → c' = c) ∧
    (c.nets.bit.valid = true → ∃ (f : FrmState) (v : Bool),
      c' = { c with frm := f, nets := { c.nets with ckPass := v } } ∧
      (v = true ↔ f.ckAcc.toNat = (c.frm.fld.get c.cfg.ckField.toFin).toNat % 16) ∧
      (c.cfg.ckMask.getLsbD c.frm.cursor.toNat = false → f = c.frm) ∧
      (c.cfg.ckMask.getLsbD c.frm.cursor.toNat = true →
        f.cursor = c.frm.cursor ∧ f.fld = c.frm.fld ∧ f.par = c.frm.par ∧
        f.ckNib.toNat = (2 * c.frm.ckNib.toNat + c.nets.bit.value.toNat) % 16 ∧
        f.ckCnt.toNat = (c.frm.ckCnt.toNat + 1) % 4 ∧
        (c.frm.ckCnt.toNat = 3 → f.ckAcc.toNat = (c.frm.ckAcc.toNat + 16 - f.ckNib.toNat) % 16) ∧
        (c.frm.ckCnt.toNat ≠ 3 → f.ckAcc = c.frm.ckAcc)))

/-- The nibble checksum over a telegram: after any number of its bits, fed to FRAME_APPLY in-stream after the first and
with every preamble position as expected, the masked bits are grouped into nibbles in order of offset, whatever unmasked
offsets lie between: the accumulator is `ck_init` minus the sum of the whole nibbles, modulo 16, one to three bits left
over are not subtracted, the count is their number, and `ck_nib` is the last four masked bits (R145). -/
def Obligations.NibbleChecksumSubtractsTheNibbles : Prop :=
  ∀ (cfg : Cfg) (f : FrmState) (bits : List Bool) (i0 : Bool), legal cfg = true → cfg.ckScheme = 0b01#2 →
    f.cursor = 0#6 → 1 ≤ bits.length → bits.length ≤ cfg.nBits.toNat →
    (∀ c < bits.length, cfg.preMask.getLsbD c = true → bits[c]? = some (cfg.preVal.getLsbD c)) →
    let g := frameRun cfg f (bits.mapIdx fun j b => ⟨b, true, if j = 0 then i0 else true⟩)
    (g.ckAcc.toNat + nibbleSum (maskedBits cfg bits)) % 16 = cfg.ckInit.toNat ∧
    g.ckCnt.toNat = (maskedBits cfg bits).length % 4 ∧
    g.ckNib.toNat = lastNibble (maskedBits cfg bits)

/-- CHK_XOR_PARITY at an offset: a masked bit toggles the parity bit its offset feeds, that of its own parity under
EVEN_ODD and bit 0 under SINGLE, the other bit is unchanged (R147), and the verdict compares with `par_exp` (R148); an
unmasked offset leaves the parity bits (R144). That the check operation runs alone, acts at the offset in `cursor`,
puts its verdict on the net `ckPass` and does nothing without a valid bit is the model's own choice (log entry 4), not
the rules'. -/
def Obligations.XorParityUnit : Prop :=
  UnitOperation .chkXorParity (fun cfg => cfg.ckScheme = 0b10#2) fun _ c c' =>
    (c.nets.bit.valid = false → c' = c) ∧
    (c.nets.bit.valid = true → ∃ (p : BitVec 2) (v : Bool),
      c' = { c with frm := { c.frm with par := p }, nets := { c.nets with ckPass := v } } ∧
      (v = true ↔ p.getLsbD 0 = c.cfg.parExp.getLsbD 0 ∧
        (c.cfg.parMode = true → p.getLsbD 1 = c.cfg.parExp.getLsbD 1)) ∧
      (c.cfg.ckMask.getLsbD c.frm.cursor.toNat = false → p = c.frm.par) ∧
      (c.cfg.ckMask.getLsbD c.frm.cursor.toNat = true → ∀ g : Nat, g < 2 →
        p.getLsbD g =
          if g = (if c.cfg.parMode then c.frm.cursor.toNat % 2 else 0) then
            (c.frm.par.getLsbD g ^^ c.nets.bit.value)
          else c.frm.par.getLsbD g))

/-- CHK_NONE: no accumulator changes (R144) and every telegram passes (R149). That the check operation runs alone,
acts at the offset in `cursor`, puts its verdict on the net `ckPass` and does nothing without a valid bit is the
model's own choice (log entry 4), not the rules'. -/
def Obligations.NoCheckPassesEveryTelegram : Prop :=
  UnitOperation .chkNone (fun cfg => cfg.ckScheme = 0b00#2) fun _ c c' =>
    (c.nets.bit.valid = false → c' = c) ∧
    (c.nets.bit.valid = true → c' = { c with nets := { c.nets with ckPass := true } })

/-! ## Duplicate suppressor -/

/-- DEDUP_SUPPRESS: the message is emitted unless it is the same as the previous one, field-identical in the compared
fields and less than T after it with the difference saturated at 0; it always becomes the previous one; a timestamp
that goes back sets `anom`; `lock` is not touched; without a message nothing changes (R170 to R174, R176, R177). The
message and the decision stand on the model's nets, `emit` and `dup` 0 without a message: the model's own choice (log
entry 4). -/
def Obligations.SuppressPolicyDecides : Prop :=
  UnitOperation .dedupSuppress (fun cfg => cfg.ddPolicy = false) fun _ c c' =>
    (c.nets.msg = none → c' = { c with nets := { c.nets with emit := false, dup := false } }) ∧
    (∀ msg, c.nets.msg = some msg →
      let same : Prop := c.dd.prevValid = true ∧ Identical c.cfg msg.out c.dd.prevFld ∧
        (if msg.ts.toNat < c.dd.prevTs.toNat then 0 else msg.ts.toNat - c.dd.prevTs.toNat) < c.cfg.ddInterval.toNat
      ∃ e : Bool, (e = true ↔ ¬ same) ∧
      c' = { c with
             dd := { prevValid := true, prevFld := msg.out, prevTs := msg.ts, lock := c.dd.lock }
             anom := c.anom || (c.dd.prevValid && decide (msg.ts.toNat < c.dd.prevTs.toNat))
             nets := { c.nets with emit := e, dup := !e } })

/-- DEDUP_LOCK: a message that is not the same as the previous one clears the lock and is not emitted; the same with
the lock clear sets it and is emitted; the same with the lock set is not emitted; it always becomes the previous one
(R170 to R173, R175 to R177). The message and the decision stand on the model's nets, `emit` and `dup` 0 without a
message: the model's own choice (log entry 4). -/
def Obligations.LockPolicyDecides : Prop :=
  UnitOperation .dedupLock (fun cfg => cfg.ddPolicy = true) fun _ c c' =>
    (c.nets.msg = none → c' = { c with nets := { c.nets with emit := false, dup := false } }) ∧
    (∀ msg, c.nets.msg = some msg →
      let same : Prop := c.dd.prevValid = true ∧ Identical c.cfg msg.out c.dd.prevFld ∧
        (if msg.ts.toNat < c.dd.prevTs.toNat then 0 else msg.ts.toNat - c.dd.prevTs.toNat) < c.cfg.ddInterval.toNat
      ∃ e l : Bool,
      (¬ same → l = false ∧ e = false) ∧
      (same → c.dd.lock = false → l = true ∧ e = true) ∧
      (same → c.dd.lock = true → l = true ∧ e = false) ∧
      c' = { c with
             dd := { prevValid := true, prevFld := msg.out, prevTs := msg.ts, lock := l }
             anom := c.anom || (c.dd.prevValid && decide (msg.ts.toNat < c.dd.prevTs.toNat))
             nets := { c.nets with emit := e, dup := !e } })

/-- A run of field-identical messages, each less than T after the one before, after reset: suppress-recent-identical
emits only the first and the lock policy only the second, however long the run (R182). -/
def Obligations.RepeatsWithinTheIntervalEmitOnce : Prop :=
  ∀ (cfg : Cfg) (dd : DedupState) (m : Message) (ms : List Message), dd.prevValid = false → RepeatsOf cfg m ms →
    emissions dedupSuppress cfg dd (m :: ms) = true :: List.replicate ms.length false ∧
    emissions dedupLock cfg dd (m :: ms) =
      false :: (match ms with
        | [] => []
        | _ :: rest => true :: List.replicate rest.length false)

/-- The lock policy on a message, its repeat within the interval and a different message: exactly one emission, on the
second, and the lock is clear after the third, from no previous message or from one that differs (R181). -/
def Obligations.LockTripleEmitsOnTheSecond : Prop :=
  ∀ (cfg : Cfg) (dd : DedupState) (a1 a2 b : Message),
    (dd.prevValid = false ∨ ¬ Identical cfg a1.out dd.prevFld) → RepeatsOf cfg a1 [a2] →
    ¬ Identical cfg b.out a2.out →
    emissions dedupLock cfg dd [a1, a2, b] = [false, true, false] ∧ (dedupRun dedupLock cfg dd [a1, a2, b]).lock = false

/-- Under both policies a message whose timestamp is earlier than the previous one's sets `anom`, and counts as no time:
the time difference is 0, so with equal compared fields and an interval above 0 the message is the same as the previous
one, not emitted under suppress-recent-identical, and emitted under the lock policy only if the lock is clear. Any other
message leaves `anom` (R172, R173). The decision stands on the model's nets (log entry 4). -/
def Obligations.BackwardsTimestampCountsAsNoTime : Prop :=
  (∀ (dd : DedupState) (msg : Message), msg.ts.toNat < dd.prevTs.toNat → delta dd msg = 0) ∧
  (UnitOperation .dedupSuppress (fun cfg => cfg.ddPolicy = false) fun _ c c' =>
    ∀ msg, c.nets.msg = some msg →
      (c.dd.prevValid = true → msg.ts.toNat < c.dd.prevTs.toNat → c'.anom = true ∧
        (Identical c.cfg msg.out c.dd.prevFld → c.cfg.ddInterval ≠ 0 →
          c'.nets.emit = false ∧ c'.nets.dup = true)) ∧
      (c.dd.prevValid = false ∨ c.dd.prevTs.toNat ≤ msg.ts.toNat → c'.anom = c.anom)) ∧
  (UnitOperation .dedupLock (fun cfg => cfg.ddPolicy = true) fun _ c c' =>
    ∀ msg, c.nets.msg = some msg →
      (c.dd.prevValid = true → msg.ts.toNat < c.dd.prevTs.toNat → c'.anom = true ∧
        (Identical c.cfg msg.out c.dd.prevFld → c.cfg.ddInterval ≠ 0 →
          c'.nets.emit = (!c.dd.lock) ∧ c'.nets.dup = c.dd.lock ∧ c'.dd.lock = true)) ∧
      (c.dd.prevValid = false ∨ c.dd.prevTs.toNat ≤ msg.ts.toNat → c'.anom = c.anom))

/-! ## The whole sample, and the whole machine -/

/-- The outputs of a sample in an active channel show what its units gave: `o_bit` is the decoder's bus, the event
strobes are the framer's event bits, `o_frm_valid` says whether the framer produced a message and `o_frm_*` show it,
`o_emit` is the suppressor's decision and `o_out_*` show the emitted message, `o_evt_dup` its opposite on a message,
`o_anom` shows `anom`. A framed message is stamped with `ts_now` and is what the suppressor remembers; a sample without
a valid bit leaves framer, suppressor and `anom`, one without a message leaves suppressor and `anom` (R45 to R49, R136,
R150, R170, R179, R186). -/
def Obligations.SampleOutputsAreItsMessage : Prop :=
  SampleOperation (fun _ => True) fun s d c c' =>
    let decoded : BitBus × DecState :=
      if c.cfg.family = 0b00#2 then psDecode c.dec (matchBits d c.cfg.win)
      else bmcDecode c.cfg c.dec d.toNat (matchBits d c.cfg.win)
    let framed : FrameResult := frameApply c.cfg c.frm decoded.1 s.tsNow
    c'.dec = decoded.2 ∧ c'.frm = framed.frm ∧
    (c'.out.bit.getLsbD 0 = decoded.1.value ∧ c'.out.bit.getLsbD 1 = decoded.1.valid ∧
      c'.out.bit.getLsbD 2 = decoded.1.instream) ∧
    (c'.out.evtResync = framed.resync ∧ c'.out.evtAbort = framed.abort ∧ c'.out.evtCkfail = framed.ckfail) ∧
    c'.out.frmValid = framed.msg.isSome ∧
    (framed.msg = none → c'.dd = c.dd ∧ c'.anom = c.anom ∧ c'.out.emit = false ∧ c'.out.evtDup = false) ∧
    (∀ msg, framed.msg = some msg →
      let decision : DedupResult :=
        if c.cfg.ddPolicy then dedupLock c.cfg c.dd msg else dedupSuppress c.cfg c.dd msg
      c'.dd = decision.dd ∧
      c'.anom = (c.anom || (c.dd.prevValid && decide (msg.ts.toNat < c.dd.prevTs.toNat))) ∧
      (c'.out.frmFld = msg.out ∧ c'.out.frmTs = msg.ts) ∧
      c'.out.emit = decision.emit ∧ c'.out.evtDup = (!decision.emit) ∧
      (decision.emit = true → c'.out.outFld = msg.out ∧ c'.out.outTs = msg.ts) ∧
      (decision.emit = false → c'.out.outFld = c.out.outFld ∧ c'.out.outTs = c.out.outTs)) ∧
    (c'.out.frmValid = true → c'.out.frmCkOk = true ∧ c'.out.frmTs = s.tsNow ∧
      c'.dd.prevValid = true ∧ c'.dd.prevFld = c'.out.frmFld ∧ c'.dd.prevTs = s.tsNow) ∧
    (c'.out.emit = true → c'.out.frmValid = true ∧ c'.out.outFld = c'.out.frmFld ∧ c'.out.outTs = s.tsNow) ∧
    c'.out.anom = c'.anom ∧
    (c'.out.bit.getLsbD 1 = false → c'.frm = c.frm) ∧
    (c'.out.frmValid = false → c'.dd = c.dd ∧ c'.anom = c.anom)

/-- The invariant of Safety.lean holds at State.reset. Its clauses on the units and the outputs rest on R53's values;
that there is a channel, that it is an inert one (the all-zero configuration) and SAMPLE_W = 24 at reset are the model's
own choice (log entries 2 and 3). ResetBringsTheInvariantAbout says it without them. -/
def Obligations.StateInvAtReset : Prop := State.reset.Inv

/-- The invariant is kept by every step from every state that has it: the nets idle, the five bus patterns, the strobes
that exclude each other, inert channels at reset, the cursor below N, the field registers within their fields, the other
family's decoder element, SINGLE's second parity bit and the unused lock at 0, the outputs showing the flags and the
previous message (R38, R39, R49, R78, R116, R129, R147, R176, R178, R189, R191, R203). -/
def Obligations.EveryStepKeepsTheStateInv : Prop := ∀ s t : State, s.Inv → step s = .next t → t.Inv

/-- A host that keeps its duties never sees the block go wrong, for a claim about any set of channels: from a state with
the invariant, no reserved command seen, and on those channels no anomaly showing, none illegally configured and no
illegal enabled configuration to come, every number of steps of a well-formed program ends in a next state with
`o_cmd_err` at 0 and, on those channels, `o_cfg_err` and `o_anom` at 0, whatever the other channels' configurations are
(R81, R191, R212, R223, R224). The program is the model's list of cycles (log entry 1). -/
def Obligations.DutifulHostNeverGoesWrong : Prop :=
  ∀ (s : State) (about : Nat → Prop) (ts : Timestamp), s.Inv → ¬ s.goneWrong about → ¬ s.clockAnomaly about →
    s.seenUpTo about ts → HostProgram.wf ts s.pending = true →
    (∀ c ∈ s.pending, ∀ l, c.cfg = some l → ∀ (k : Nat) (cfg : Cfg), about k → l[k]? = some cfg → cfg.en = true →
      legal cfg = true) →
    ∀ k : Nat, ∃ t : State, Host.Core.run Sys2Proof.core k s = .next t ∧ ¬ t.goneWrong about ∧ ¬ t.clockAnomaly about

/-- A reset cycle brings the invariant about from every state, for every configuration of every number of channels from
one up and every SAMPLE_W up to 32 (R53, R220, R221). The list of cycles is the model's choice (log entry 1). -/
def Obligations.ResetBringsTheInvariantAbout : Prop :=
  ∀ s : State, s.chans ≠ [] → s.sampleW ≤ Config.dataW → s.cycle.rst = true → ∃ t : State, step s = .next t ∧ t.Inv
end

