-- ==== Sys2Proof/Laws/Arrays.lean ====
section
/-! SUPPORT. The small lemmas of the two fixed-size arrays. -/

namespace Sys2Proof

@[simp] theorem Four.get_map {α β : Type} (f : α → β) (v : Four α) (i : Fin 4) : (v.map f).get i = f (v.get i) := by
  fin_cases i <;> rfl

@[simp] theorem Four.get_replicate {α : Type} (a : α) (i : Fin 4) : (Four.replicate a).get i = a := by
  fin_cases i <;> rfl

@[simp] theorem Eight.get_replicate {α : Type} (a : α) (i : Fin 8) : (Eight.replicate a).get i = a := by
  fin_cases i <;> rfl

@[simp] theorem Eight.get_zipWith {α β γ : Type} (g : α → β → γ) (u : Eight α) (v : Eight β) (i : Fin 8) :
    (Eight.zipWith g u v).get i = g (u.get i) (v.get i) := by
  fin_cases i <;> rfl

/-- Two arrays are equal when they are equal at every index. -/
theorem Eight.ext_get {α : Type} {u v : Eight α} (h : ∀ i, u.get i = v.get i) : u = v := by
  cases u
  cases v
  simp only [Eight.mk.injEq]
  exact ⟨h 0, h 1, h 2, h 3, h 4, h 5, h 6, h 7⟩

/-- A check of every element is a check at every index. -/
theorem Eight.all_toList {α : Type} (p : α → Bool) (v : Eight α) :
    v.toList.all p = true ↔ ∀ i, p (v.get i) = true := by
  constructor
  · intro h i
    simp only [Eight.toList, List.all_cons, List.all_nil, Bool.and_true, Bool.and_eq_true] at h
    fin_cases i <;> simp_all [Eight.get]
  · intro h
    simp only [Eight.toList, List.all_cons, List.all_nil, Bool.and_true, Bool.and_eq_true]
    exact ⟨h 0, h 1, h 2, h 3, h 4, h 5, h 6, h 7⟩

/-- The elements of the list are the elements at the indices. -/
theorem Eight.toList_getElem? {α : Type} (v : Eight α) (i : Fin 8) : v.toList[i.val]? = some (v.get i) := by
  fin_cases i <;> rfl

end Sys2Proof
end

