-- ==== Sys2Proof/Laws/State.lean ====
section
/-! SUPPORT. One lemma per field and per named update of the state, each true by rfl, so that no later proof unfolds
a record update. -/

namespace Sys2Proof.Machine

/-! ### State.onEach -/

@[simp] theorem State.onEach_sampleW (s : State) (f : Channel → Channel) : (s.onEach f).sampleW = s.sampleW := rfl
@[simp] theorem State.onEach_chans (s : State) (f : Channel → Channel) : (s.onEach f).chans = s.chans.map f := rfl
@[simp] theorem State.onEach_cmdErr (s : State) (f : Channel → Channel) : (s.onEach f).cmdErr = s.cmdErr := rfl
@[simp] theorem State.onEach_oCmdErr (s : State) (f : Channel → Channel) : (s.onEach f).oCmdErr = s.oCmdErr := rfl
@[simp] theorem State.onEach_tsNow (s : State) (f : Channel → Channel) : (s.onEach f).tsNow = s.tsNow := rfl
@[simp] theorem State.onEach_pending (s : State) (f : Channel → Channel) : (s.onEach f).pending = s.pending := rfl

/-! ### State.onSelected -/

@[simp] theorem State.onSelected_sampleW (s : State) (sel : Cfg → Bool) (f : Channel → Channel) : (s.onSelected sel f).sampleW = s.sampleW := rfl
@[simp] theorem State.onSelected_chans (s : State) (sel : Cfg → Bool) (f : Channel → Channel) : (s.onSelected sel f).chans = s.chans.map fun c => if c.active && sel c.cfg then f c else c := rfl
@[simp] theorem State.onSelected_cmdErr (s : State) (sel : Cfg → Bool) (f : Channel → Channel) : (s.onSelected sel f).cmdErr = s.cmdErr := rfl
@[simp] theorem State.onSelected_oCmdErr (s : State) (sel : Cfg → Bool) (f : Channel → Channel) : (s.onSelected sel f).oCmdErr = s.oCmdErr := rfl
@[simp] theorem State.onSelected_tsNow (s : State) (sel : Cfg → Bool) (f : Channel → Channel) : (s.onSelected sel f).tsNow = s.tsNow := rfl
@[simp] theorem State.onSelected_pending (s : State) (sel : Cfg → Bool) (f : Channel → Channel) : (s.onSelected sel f).pending = s.pending := rfl

/-! ### State.raiseCmdErr -/

@[simp] theorem State.raiseCmdErr_sampleW (s : State) : (s.raiseCmdErr).sampleW = s.sampleW := rfl
@[simp] theorem State.raiseCmdErr_chans (s : State) : (s.raiseCmdErr).chans = s.chans := rfl
@[simp] theorem State.raiseCmdErr_cmdErr (s : State) : (s.raiseCmdErr).cmdErr = true := rfl
@[simp] theorem State.raiseCmdErr_oCmdErr (s : State) : (s.raiseCmdErr).oCmdErr = true := rfl
@[simp] theorem State.raiseCmdErr_tsNow (s : State) : (s.raiseCmdErr).tsNow = s.tsNow := rfl
@[simp] theorem State.raiseCmdErr_pending (s : State) : (s.raiseCmdErr).pending = s.pending := rfl

/-! ### State.doReset -/

@[simp] theorem State.doReset_sampleW (s : State) : (s.doReset).sampleW = s.sampleW := rfl
@[simp] theorem State.doReset_chans (s : State) : (s.doReset).chans = s.chans.map Channel.doReset := rfl
@[simp] theorem State.doReset_cmdErr (s : State) : (s.doReset).cmdErr = false := rfl
@[simp] theorem State.doReset_oCmdErr (s : State) : (s.doReset).oCmdErr = false := rfl
@[simp] theorem State.doReset_tsNow (s : State) : (s.doReset).tsNow = s.tsNow := rfl
@[simp] theorem State.doReset_pending (s : State) : (s.doReset).pending = s.pending := rfl

/-! ### State.accept -/

@[simp] theorem State.accept_sampleW (s : State) : (s.accept).sampleW = s.sampleW := rfl
@[simp] theorem State.accept_chans (s : State) : (s.accept).chans = s.chans := rfl
@[simp] theorem State.accept_cmdErr (s : State) : (s.accept).cmdErr = s.cmdErr := rfl
@[simp] theorem State.accept_oCmdErr (s : State) : (s.accept).oCmdErr = s.oCmdErr := rfl
@[simp] theorem State.accept_tsNow (s : State) : (s.accept).tsNow = s.cycle.ts := rfl
@[simp] theorem State.accept_pending (s : State) : (s.accept).pending = s.pending.tail := rfl

/-! ### State.present -/

@[simp] theorem State.present_sampleW (s : State) (w : BitVec 34) : (s.present w).sampleW = s.sampleW := rfl
@[simp] theorem State.present_chans (s : State) (w : BitVec 34) : (s.present w).chans = s.chans := rfl
@[simp] theorem State.present_cmdErr (s : State) (w : BitVec 34) : (s.present w).cmdErr = s.cmdErr := rfl
@[simp] theorem State.present_oCmdErr (s : State) (w : BitVec 34) : (s.present w).oCmdErr = s.oCmdErr := rfl
@[simp] theorem State.present_tsNow (s : State) (w : BitVec 34) : (s.present w).tsNow = s.tsNow := rfl
@[simp] theorem State.present_pending (s : State) (w : BitVec 34) : (s.present w).pending = { rst := false, cmd := w, ts := s.tsNow, cfg := none } :: s.pending := rfl

/-! ### Channel.quiet -/

@[simp] theorem Channel.quiet_cfg (c : Channel) : (c.quiet).cfg = c.cfg := rfl
@[simp] theorem Channel.quiet_dec (c : Channel) : (c.quiet).dec = c.dec := rfl
@[simp] theorem Channel.quiet_frm (c : Channel) : (c.quiet).frm = c.frm := rfl
@[simp] theorem Channel.quiet_dd (c : Channel) : (c.quiet).dd = c.dd := rfl
@[simp] theorem Channel.quiet_anom (c : Channel) : (c.quiet).anom = c.anom := rfl
@[simp] theorem Channel.quiet_out (c : Channel) : (c.quiet).out = c.out.quiet := rfl
@[simp] theorem Channel.quiet_nets (c : Channel) : (c.quiet).nets = c.nets := rfl

/-! ### Channel.drive -/

@[simp] theorem Channel.drive_cfg (c : Channel) (d : Word) : (c.drive d).cfg = c.cfg := rfl
@[simp] theorem Channel.drive_dec (c : Channel) (d : Word) : (c.drive d).dec = c.dec := rfl
@[simp] theorem Channel.drive_frm (c : Channel) (d : Word) : (c.drive d).frm = c.frm := rfl
@[simp] theorem Channel.drive_dd (c : Channel) (d : Word) : (c.drive d).dd = c.dd := rfl
@[simp] theorem Channel.drive_anom (c : Channel) (d : Word) : (c.drive d).anom = c.anom := rfl
@[simp] theorem Channel.drive_out (c : Channel) (d : Word) : (c.drive d).out = c.out := rfl
@[simp] theorem Channel.drive_nets (c : Channel) (d : Word) : (c.drive d).nets = { Nets.idle with d := d } := rfl

/-! ### Channel.classify -/

@[simp] theorem Channel.classify_cfg (c : Channel) : (c.classify).cfg = c.cfg := rfl
@[simp] theorem Channel.classify_dec (c : Channel) : (c.classify).dec = c.dec := rfl
@[simp] theorem Channel.classify_frm (c : Channel) : (c.classify).frm = c.frm := rfl
@[simp] theorem Channel.classify_dd (c : Channel) : (c.classify).dd = c.dd := rfl
@[simp] theorem Channel.classify_anom (c : Channel) : (c.classify).anom = c.anom := rfl
@[simp] theorem Channel.classify_out (c : Channel) : (c.classify).out = c.out := rfl
@[simp] theorem Channel.classify_nets (c : Channel) : (c.classify).nets = { c.nets with m := matchBits c.nets.d c.cfg.win } := rfl

/-! ### Channel.psStage -/

@[simp] theorem Channel.psStage_cfg (c : Channel) : (c.psStage).cfg = c.cfg := rfl
@[simp] theorem Channel.psStage_dec (c : Channel) : (c.psStage).dec = (psDecode c.dec c.nets.m).2 := rfl
@[simp] theorem Channel.psStage_frm (c : Channel) : (c.psStage).frm = c.frm := rfl
@[simp] theorem Channel.psStage_dd (c : Channel) : (c.psStage).dd = c.dd := rfl
@[simp] theorem Channel.psStage_anom (c : Channel) : (c.psStage).anom = c.anom := rfl
@[simp] theorem Channel.psStage_out (c : Channel) : (c.psStage).out = c.out := rfl
@[simp] theorem Channel.psStage_nets (c : Channel) : (c.psStage).nets = { c.nets with bit := (psDecode c.dec c.nets.m).1 } := rfl

/-! ### Channel.bmcStage -/

@[simp] theorem Channel.bmcStage_cfg (c : Channel) : (c.bmcStage).cfg = c.cfg := rfl
@[simp] theorem Channel.bmcStage_dec (c : Channel) : (c.bmcStage).dec = (bmcDecode c.cfg c.dec c.nets.d.toNat c.nets.m).2 := rfl
@[simp] theorem Channel.bmcStage_frm (c : Channel) : (c.bmcStage).frm = c.frm := rfl
@[simp] theorem Channel.bmcStage_dd (c : Channel) : (c.bmcStage).dd = c.dd := rfl
@[simp] theorem Channel.bmcStage_anom (c : Channel) : (c.bmcStage).anom = c.anom := rfl
@[simp] theorem Channel.bmcStage_out (c : Channel) : (c.bmcStage).out = c.out := rfl
@[simp] theorem Channel.bmcStage_nets (c : Channel) : (c.bmcStage).nets = { c.nets with bit := (bmcDecode c.cfg c.dec c.nets.d.toNat c.nets.m).1 } := rfl

/-! ### Channel.frameStage -/

@[simp] theorem Channel.frameStage_cfg (c : Channel) (ts : Timestamp) : (c.frameStage ts).cfg = c.cfg := rfl
@[simp] theorem Channel.frameStage_dec (c : Channel) (ts : Timestamp) : (c.frameStage ts).dec = c.dec := rfl
@[simp] theorem Channel.frameStage_frm (c : Channel) (ts : Timestamp) : (c.frameStage ts).frm = (frameApply c.cfg c.frm c.nets.bit ts).frm := rfl
@[simp] theorem Channel.frameStage_dd (c : Channel) (ts : Timestamp) : (c.frameStage ts).dd = c.dd := rfl
@[simp] theorem Channel.frameStage_anom (c : Channel) (ts : Timestamp) : (c.frameStage ts).anom = c.anom := rfl
@[simp] theorem Channel.frameStage_out (c : Channel) (ts : Timestamp) : (c.frameStage ts).out = c.out := rfl

@[simp] theorem Channel.frameStage_nets_d (c : Channel) (ts : Timestamp) : (c.frameStage ts).nets.d = c.nets.d := rfl
@[simp] theorem Channel.frameStage_nets_m (c : Channel) (ts : Timestamp) : (c.frameStage ts).nets.m = c.nets.m := rfl
@[simp] theorem Channel.frameStage_nets_bit (c : Channel) (ts : Timestamp) : (c.frameStage ts).nets.bit = c.nets.bit := rfl
@[simp] theorem Channel.frameStage_nets_ckPass (c : Channel) (ts : Timestamp) : (c.frameStage ts).nets.ckPass = c.nets.ckPass := rfl
@[simp] theorem Channel.frameStage_nets_emit (c : Channel) (ts : Timestamp) : (c.frameStage ts).nets.emit = c.nets.emit := rfl
@[simp] theorem Channel.frameStage_nets_dup (c : Channel) (ts : Timestamp) : (c.frameStage ts).nets.dup = c.nets.dup := rfl
@[simp] theorem Channel.frameStage_nets_msg (c : Channel) (ts : Timestamp) : (c.frameStage ts).nets.msg = (frameApply c.cfg c.frm c.nets.bit ts).msg := rfl
@[simp] theorem Channel.frameStage_nets_resync (c : Channel) (ts : Timestamp) : (c.frameStage ts).nets.resync = (frameApply c.cfg c.frm c.nets.bit ts).resync := rfl
@[simp] theorem Channel.frameStage_nets_abort (c : Channel) (ts : Timestamp) : (c.frameStage ts).nets.abort = (frameApply c.cfg c.frm c.nets.bit ts).abort := rfl
@[simp] theorem Channel.frameStage_nets_ckfail (c : Channel) (ts : Timestamp) : (c.frameStage ts).nets.ckfail = (frameApply c.cfg c.frm c.nets.bit ts).ckfail := rfl

/-! ### Channel.latch -/

@[simp] theorem Channel.latch_cfg (c : Channel) : (c.latch).cfg = c.cfg := rfl
@[simp] theorem Channel.latch_dec (c : Channel) : (c.latch).dec = c.dec := rfl
@[simp] theorem Channel.latch_frm (c : Channel) : (c.latch).frm = c.frm := rfl
@[simp] theorem Channel.latch_dd (c : Channel) : (c.latch).dd = c.dd := rfl
@[simp] theorem Channel.latch_anom (c : Channel) : (c.latch).anom = c.anom := rfl
@[simp] theorem Channel.latch_nets (c : Channel) : (c.latch).nets = Nets.idle := rfl

@[simp] theorem Channel.latch_out_bit (c : Channel) : c.latch.out.bit = c.nets.bit.toBits := rfl
@[simp] theorem Channel.latch_out_frmValid (c : Channel) : c.latch.out.frmValid = c.nets.msg.isSome := rfl
@[simp] theorem Channel.latch_out_emit (c : Channel) : c.latch.out.emit = c.nets.emit := rfl
@[simp] theorem Channel.latch_out_evtResync (c : Channel) : c.latch.out.evtResync = c.nets.resync := rfl
@[simp] theorem Channel.latch_out_evtAbort (c : Channel) : c.latch.out.evtAbort = c.nets.abort := rfl
@[simp] theorem Channel.latch_out_evtCkfail (c : Channel) : c.latch.out.evtCkfail = c.nets.ckfail := rfl
@[simp] theorem Channel.latch_out_evtDup (c : Channel) : c.latch.out.evtDup = c.nets.dup := rfl
@[simp] theorem Channel.latch_out_anom (c : Channel) : c.latch.out.anom = c.anom := rfl

@[simp] theorem Channel.doReset_cfg (c : Channel) : c.doReset.cfg = c.cfg := rfl
@[simp] theorem Channel.doReset_dec (c : Channel) : c.doReset.dec = DecState.reset := rfl
@[simp] theorem Channel.doReset_frm (c : Channel) : c.doReset.frm = FrmState.reset := rfl
@[simp] theorem Channel.doReset_dd (c : Channel) : c.doReset.dd = DedupState.reset := rfl
@[simp] theorem Channel.doReset_anom (c : Channel) : c.doReset.anom = false := rfl
@[simp] theorem Channel.doReset_out (c : Channel) : c.doReset.out = Outputs.reset := rfl
@[simp] theorem Channel.doReset_nets (c : Channel) : c.doReset.nets = Nets.idle := rfl

@[simp] theorem Outputs.quiet_bit (o : Outputs) : o.quiet.bit = 0 := rfl
@[simp] theorem Outputs.quiet_frmValid (o : Outputs) : o.quiet.frmValid = false := rfl
@[simp] theorem Outputs.quiet_frmFld (o : Outputs) : o.quiet.frmFld = o.frmFld := rfl
@[simp] theorem Outputs.quiet_frmTs (o : Outputs) : o.quiet.frmTs = o.frmTs := rfl
@[simp] theorem Outputs.quiet_frmCkOk (o : Outputs) : o.quiet.frmCkOk = o.frmCkOk := rfl
@[simp] theorem Outputs.quiet_emit (o : Outputs) : o.quiet.emit = false := rfl
@[simp] theorem Outputs.quiet_outFld (o : Outputs) : o.quiet.outFld = o.outFld := rfl
@[simp] theorem Outputs.quiet_outTs (o : Outputs) : o.quiet.outTs = o.outTs := rfl
@[simp] theorem Outputs.quiet_evtResync (o : Outputs) : o.quiet.evtResync = false := rfl
@[simp] theorem Outputs.quiet_evtAbort (o : Outputs) : o.quiet.evtAbort = false := rfl
@[simp] theorem Outputs.quiet_evtCkfail (o : Outputs) : o.quiet.evtCkfail = false := rfl
@[simp] theorem Outputs.quiet_evtDup (o : Outputs) : o.quiet.evtDup = false := rfl
@[simp] theorem Outputs.quiet_anom (o : Outputs) : o.quiet.anom = o.anom := rfl

@[simp] theorem DedupState.remember_prevValid (dd : DedupState) (msg : Message) : (dd.remember msg).prevValid = true := rfl
@[simp] theorem DedupState.remember_prevFld (dd : DedupState) (msg : Message) : (dd.remember msg).prevFld = msg.out := rfl
@[simp] theorem DedupState.remember_prevTs (dd : DedupState) (msg : Message) : (dd.remember msg).prevTs = msg.ts := rfl
@[simp] theorem DedupState.remember_lock (dd : DedupState) (msg : Message) : (dd.remember msg).lock = dd.lock := rfl

end Sys2Proof.Machine
end

