-- ==== Sys2Proof/Laws/Ops.lean ====
section
/-! SUPPORT. What the shared operations over the block do in one channel, said once. -/

namespace Sys2Proof.Machine

@[simp] theorem State.onEach_getElem? (s : State) (f : Channel → Channel) (k : Nat) :
    (s.onEach f).chans[k]? = (s.chans[k]?).map f := by
  simp [State.onEach]

@[simp] theorem State.onSelected_getElem? (s : State) (sel : Cfg → Bool) (f : Channel → Channel) (k : Nat) :
    (s.onSelected sel f).chans[k]? = (s.chans[k]?).map fun c => if c.active && sel c.cfg then f c else c := by
  simp [State.onSelected]

/-- Two operations done in every channel are their composition done in every channel. -/
theorem State.onEach_onEach (s : State) (f g : Channel → Channel) :
    (s.onEach f).onEach g = s.onEach (fun c => g (f c)) := by
  simp [State.onEach, Function.comp_def]

/-- Whether a channel is active depends on its configuration only. -/
theorem Channel.active_congr {c d : Channel} (h : c.cfg = d.cfg) : c.active = d.active := by
  simp [Channel.active, h]

theorem Channel.active_iff (c : Channel) : c.active = true ↔ c.cfg.en = true ∧ legal c.cfg = true := by
  simp [Channel.active]

theorem Channel.active_eq_false (c : Channel) : c.active = false ↔ c.cfg.en = false ∨ legal c.cfg = false := by
  cases h : c.cfg.en <;> simp [Channel.active, h]

theorem Channel.oCfgErr_congr {c d : Channel} (h : c.cfg = d.cfg) : c.oCfgErr = d.oCfgErr := by
  simp [Channel.oCfgErr, h]

@[simp] theorem Channel.decodeStage_cfg (c : Channel) : c.decodeStage.cfg = c.cfg := by
  unfold Channel.decodeStage
  split <;> rfl

@[simp] theorem Channel.dedupStage_cfg (policy : Cfg → DedupState → Message → DedupResult) (c : Channel) :
    (c.dedupStage policy).cfg = c.cfg := by
  unfold Channel.dedupStage
  split <;> rfl

@[simp] theorem Channel.suppressStage_cfg (c : Channel) : c.suppressStage.cfg = c.cfg := by
  unfold Channel.suppressStage
  split <;> simp

@[simp] theorem Channel.checkStage_cfg (u : Cfg → FrmState → Bool → FrmState) (v : Cfg → FrmState → Bool)
    (c : Channel) : (c.checkStage u v).cfg = c.cfg := by
  unfold Channel.checkStage
  split <;> rfl

@[simp] theorem Channel.sample_cfg (d : Word) (ts : Timestamp) (c : Channel) : (c.sample d ts).cfg = c.cfg := by
  unfold Channel.sample
  split <;> simp

/-! ### The stages leave a channel as active as it is -/

@[simp] theorem Channel.quiet_active (c : Channel) : c.quiet.active = c.active := rfl

@[simp] theorem Channel.drive_active (c : Channel) (d : Word) : (c.drive d).active = c.active := rfl

@[simp] theorem Channel.classify_active (c : Channel) : c.classify.active = c.active := rfl

@[simp] theorem Channel.psStage_active (c : Channel) : c.psStage.active = c.active := rfl

@[simp] theorem Channel.bmcStage_active (c : Channel) : c.bmcStage.active = c.active := rfl

@[simp] theorem Channel.frameStage_active (c : Channel) (ts : Timestamp) : (c.frameStage ts).active = c.active := rfl

@[simp] theorem Channel.dedupStage_active (policy : Cfg → DedupState → Message → DedupResult) (c : Channel) :
    (c.dedupStage policy).active = c.active := Channel.active_congr (by simp)

@[simp] theorem Channel.sample_active (c : Channel) (d : Word) (ts : Timestamp) :
    (c.sample d ts).active = c.active := Channel.active_congr (by simp)

/-- The parts of LEGAL(cfg), each under its own name. -/
theorem legal_parts (cfg : Cfg) : legal cfg = true ↔
    legalFamily cfg = true ∧ legalLength cfg = true ∧ legalRanges cfg = true ∧ legalDisjoint cfg = true ∧
    legalExtension cfg = true ∧ legalPreamble cfg = true ∧ legalScheme cfg = true ∧ legalCkMask cfg = true ∧
    legalCkField cfg = true := by
  simp [legal, and_assoc]

/-- A legal configuration's family is Pulse-Space or Biphase-Mark (L1). -/
theorem family_of_legal {cfg : Cfg} (h : legal cfg = true) : cfg.family = 0#2 ∨ cfg.family = 1#2 := by
  have := ((legal_parts cfg).1 h).1
  simpa [legalFamily] using this

/-- A legal configuration's telegram has 1 to 64 bits (L2). -/
theorem nBits_of_legal {cfg : Cfg} (h : legal cfg = true) : 1 ≤ cfg.nBits.toNat ∧ cfg.nBits.toNat ≤ 64 := by
  have := ((legal_parts cfg).1 h).2.1
  simp only [legalLength, Bool.and_eq_true, decide_eq_true_eq] at this
  exact this

/-- An enabled field of a legal configuration has 1 to 32 bits, all below N (L3). -/
theorem range_of_legal {cfg : Cfg} (h : legal cfg = true) (i : Fin 8) (he : (cfg.fld.get i).en = true) :
    1 ≤ (cfg.fld.get i).wid.toNat ∧ (cfg.fld.get i).wid.toNat ≤ 32 ∧
      (cfg.fld.get i).off.toNat + (cfg.fld.get i).wid.toNat ≤ cfg.nBits.toNat := by
  have := ((legal_parts cfg).1 h).2.2.1
  rw [legalRanges, Eight.all_toList] at this
  simpa [he, and_assoc] using this i

/-- Driving the configuration bundles changes a channel in nothing but its configuration, and no number of channels. -/
theorem driveCfg_length (l : List Cfg) (cs : List Channel) : (driveCfg l cs).length = cs.length := by
  induction cs generalizing l with
  | nil => cases l <;> rfl
  | cons c cs ih => cases l <;> simp [driveCfg, ih]

theorem driveCfg_getElem? (l : List Cfg) (cs : List Channel) (k : Nat) :
    (driveCfg l cs)[k]? = (cs[k]?).map fun c => { c with cfg := (l[k]?).getD c.cfg } := by
  induction cs generalizing l k with
  | nil => cases l <;> simp [driveCfg]
  | cons c cs ih =>
    cases l with
    | nil => simp [driveCfg]
    | cons a l => cases k <;> simp [driveCfg, ih]

end Sys2Proof.Machine
end

