-- ==== Sys2Proof/Laws/Decoders.lean ====
section
/-! SUPPORT. What the classifier and the two bit decoders do, said once. -/

namespace Sys2Proof.Machine

theorem winMatch_iff (d : Nat) (w : Window) :
    winMatch d w = true ↔ windowLo w ≤ (d : Int) ∧ (d : Int) ≤ windowHi w := by
  simp [winMatch]

@[simp] theorem matchBits_get (d : Word) (win : Four Window) (i : Fin 4) :
    (matchBits d win).get i = winMatch d.toNat (win.get i) := by
  simp [matchBits]

/-- Everything PS_DECODE can do: its five cases. -/
theorem psDecode_cases (dec : DecState) (m : Four Bool) :
    (dec.ps = .idle ∧ m.get 0 = true ∧ psDecode dec m = (BitBus.none, { dec with ps := .pulseRcvd })) ∨
    (dec.ps = .idle ∧ m.get 0 = false ∧ psDecode dec m = (BitBus.none, { dec with cont := false })) ∨
    (dec.ps = .pulseRcvd ∧ m.get 1 = true ∧
      psDecode dec m = (BitBus.bit false dec.cont, { dec with ps := .idle, cont := true })) ∨
    (dec.ps = .pulseRcvd ∧ m.get 1 = false ∧ m.get 2 = true ∧
      psDecode dec m = (BitBus.bit true dec.cont, { dec with ps := .idle, cont := true })) ∨
    (dec.ps = .pulseRcvd ∧ m.get 1 = false ∧ m.get 2 = false ∧
      psDecode dec m = (BitBus.none, { dec with ps := .idle, cont := false })) := by
  cases hp : dec.ps <;> cases h0 : m.get 0 <;> cases h1 : m.get 1 <;> cases h2 : m.get 2 <;>
    simp [psDecode, first, hp, h0, h1, h2]

/-- The low-pass filter discards exactly the durations below `LO(win[0])` (R121). -/
theorem filtered_iff (cfg : Cfg) (d : Nat) :
    filtered cfg d = true ↔ cfg.lpfEn = true ∧ (d : Int) < windowLo (cfg.win.get 0) := by
  simp [filtered]

/-- Everything BMC_DECODE can do: its five cases. -/
theorem bmcDecode_cases (cfg : Cfg) (dec : DecState) (d : Nat) (m : Four Bool) :
    (filtered cfg d = true ∧ bmcDecode cfg dec d m = (BitBus.none, dec)) ∨
    (filtered cfg d = false ∧ m.get 0 = true ∧ dec.half = false ∧
      bmcDecode cfg dec d m = (BitBus.none, { dec with half := true })) ∨
    (filtered cfg d = false ∧ m.get 0 = true ∧ dec.half = true ∧
      bmcDecode cfg dec d m = (BitBus.bit true dec.cont, { dec with half := false, cont := true })) ∨
    (filtered cfg d = false ∧ m.get 0 = false ∧ m.get 1 = true ∧
      bmcDecode cfg dec d m = (BitBus.bit false dec.cont, { dec with half := false, cont := true })) ∨
    (filtered cfg d = false ∧ m.get 0 = false ∧ m.get 1 = false ∧
      bmcDecode cfg dec d m = (BitBus.none, { dec with half := false, cont := false })) := by
  cases hf : filtered cfg d <;> cases hh : dec.half <;> cases h0 : m.get 0 <;> cases h1 : m.get 1 <;>
    simp [bmcDecode, first, hf, hh, h0, h1]

@[simp] theorem BitBus.none_toBits : BitBus.none.toBits = 0b000#3 := by decide

/-- The valid bit of the bus is bit 1, instream is bit 2 (R78). -/
@[simp] theorem BitBus.toBits_valid (b : BitBus) : b.toBits[1] = b.valid := by
  rcases b with ⟨v, d, i⟩
  cases v <;> cases d <;> cases i <;> rfl

@[simp] theorem BitBus.toBits_instream (b : BitBus) : b.toBits[2] = b.instream := by
  rcases b with ⟨v, d, i⟩
  cases v <;> cases d <;> cases i <;> rfl

/-- The valid bit and the instream bit, read as bits of the bus (R78). -/
theorem BitBus.toBits_getLsbD (b : BitBus) : b.toBits.getLsbD 1 = b.valid ∧ b.toBits.getLsbD 2 = b.instream := by
  rcases b with ⟨v, d, i⟩
  cases v <;> cases d <;> cases i <;> exact ⟨rfl, rfl⟩

/-- The value bit of the bus is bit 0 (R78). -/
theorem BitBus.toBits_getLsbD_value (b : BitBus) : b.toBits.getLsbD 0 = b.value := by
  rcases b with ⟨v, d, i⟩
  cases v <;> cases d <;> cases i <;> rfl

/-- The decoders put nothing on the bus, or a valid bit. -/
theorem psDecode_bus (dec : DecState) (m : Four Bool) :
    (psDecode dec m).1 = BitBus.none ∨ ∃ v i, (psDecode dec m).1 = BitBus.bit v i := by
  rcases psDecode_cases dec m with ⟨-, -, h⟩ | ⟨-, -, h⟩ | ⟨-, -, h⟩ | ⟨-, -, -, h⟩ | ⟨-, -, -, h⟩
  · exact .inl (congrArg Prod.fst h)
  · exact .inl (congrArg Prod.fst h)
  · exact .inr ⟨_, _, congrArg Prod.fst h⟩
  · exact .inr ⟨_, _, congrArg Prod.fst h⟩
  · exact .inl (congrArg Prod.fst h)

theorem bmcDecode_bus (cfg : Cfg) (dec : DecState) (d : Nat) (m : Four Bool) :
    (bmcDecode cfg dec d m).1 = BitBus.none ∨ ∃ v i, (bmcDecode cfg dec d m).1 = BitBus.bit v i := by
  rcases bmcDecode_cases cfg dec d m with ⟨-, h⟩ | ⟨-, -, -, h⟩ | ⟨-, -, -, h⟩ | ⟨-, -, -, h⟩ | ⟨-, -, -, h⟩
  · exact .inl (congrArg Prod.fst h)
  · exact .inl (congrArg Prod.fst h)
  · exact .inr ⟨_, _, congrArg Prod.fst h⟩
  · exact .inr ⟨_, _, congrArg Prod.fst h⟩
  · exact .inl (congrArg Prod.fst h)

@[simp] theorem psDecode_half (dec : DecState) (m : Four Bool) : (psDecode dec m).2.half = dec.half := by
  rcases psDecode_cases dec m with ⟨-, -, h⟩ | ⟨-, -, h⟩ | ⟨-, -, h⟩ | ⟨-, -, -, h⟩ | ⟨-, -, -, h⟩ <;> simp [h]

@[simp] theorem bmcDecode_ps (cfg : Cfg) (dec : DecState) (d : Nat) (m : Four Bool) :
    (bmcDecode cfg dec d m).2.ps = dec.ps := by
  rcases bmcDecode_cases cfg dec d m with ⟨-, h⟩ | ⟨-, -, -, h⟩ | ⟨-, -, -, h⟩ | ⟨-, -, -, h⟩ | ⟨-, -, -, h⟩ <;>
    simp [h]

end Sys2Proof.Machine
end

