-- ==== Sys2Proof/Laws/Dedup.lean ====
section
/-! SUPPORT. What the duplicate suppressor does, said once. -/

namespace Sys2Proof.Machine

/-- Field identity is equality of every compared field (R171). -/
theorem fieldsIdentical_iff (cfg : Cfg) (u v : Eight Word) :
    fieldsIdentical cfg u v = true ↔
      ∀ i, (cfg.fld.get i).en = true → (cfg.fld.get i).cmp = true → u.get i = v.get i := by
  have key : ∀ i, fieldAgrees cfg u v i = true ↔
      ((cfg.fld.get i).en = true → (cfg.fld.get i).cmp = true → u.get i = v.get i) := by
    intro i
    cases h1 : (cfg.fld.get i).en <;> cases h2 : (cfg.fld.get i).cmp <;> simp [fieldAgrees, h1, h2]
  simp only [fieldsIdentical, Bool.and_eq_true, key]
  constructor
  · rintro ⟨⟨⟨⟨⟨⟨⟨h0, h1⟩, h2⟩, h3⟩, h4⟩, h5⟩, h6⟩, h7⟩ i
    fin_cases i <;> assumption
  · intro h
    exact ⟨⟨⟨⟨⟨⟨⟨h 0, h 1⟩, h 2⟩, h 3⟩, h 4⟩, h 5⟩, h 6⟩, h 7⟩

/-- The saturated time difference is natural-number subtraction (R173). -/
theorem delta_eq (dd : DedupState) (msg : Message) : delta dd msg = msg.ts.toNat - dd.prevTs.toNat := by
  unfold delta
  split <;> omega

theorem sameAsPrevious_iff (cfg : Cfg) (dd : DedupState) (msg : Message) :
    sameAsPrevious cfg dd msg = true ↔
      dd.prevValid = true ∧ fieldsIdentical cfg msg.out dd.prevFld = true ∧
        msg.ts.toNat - dd.prevTs.toNat < cfg.ddInterval.toNat := by
  simp [sameAsPrevious, delta_eq, and_assoc]

theorem sameAsPrevious_first (cfg : Cfg) (dd : DedupState) (msg : Message) (h : dd.prevValid = false) :
    sameAsPrevious cfg dd msg = false := by
  simp [sameAsPrevious, h]

/-- Everything the lock policy can do: its three cases (R175). -/
theorem dedupLock_cases (cfg : Cfg) (dd : DedupState) (msg : Message) :
    (sameAsPrevious cfg dd msg = false ∧
      dedupLock cfg dd msg = { dd := { dd.remember msg with lock := false }, emit := false }) ∨
    (sameAsPrevious cfg dd msg = true ∧ dd.lock = false ∧
      dedupLock cfg dd msg = { dd := { dd.remember msg with lock := true }, emit := true }) ∨
    (sameAsPrevious cfg dd msg = true ∧ dd.lock = true ∧
      dedupLock cfg dd msg = { dd := dd.remember msg, emit := false }) := by
  cases h : sameAsPrevious cfg dd msg <;> cases hl : dd.lock <;> simp [dedupLock, h, hl]

@[simp] theorem dedupLock_prevValid (cfg : Cfg) (dd : DedupState) (msg : Message) :
    (dedupLock cfg dd msg).dd.prevValid = true := by
  rcases dedupLock_cases cfg dd msg with ⟨-, h⟩ | ⟨-, -, h⟩ | ⟨-, -, h⟩ <;> simp [h]

@[simp] theorem dedupLock_prevFld (cfg : Cfg) (dd : DedupState) (msg : Message) :
    (dedupLock cfg dd msg).dd.prevFld = msg.out := by
  rcases dedupLock_cases cfg dd msg with ⟨-, h⟩ | ⟨-, -, h⟩ | ⟨-, -, h⟩ <;> simp [h]

@[simp] theorem dedupLock_prevTs (cfg : Cfg) (dd : DedupState) (msg : Message) :
    (dedupLock cfg dd msg).dd.prevTs = msg.ts := by
  rcases dedupLock_cases cfg dd msg with ⟨-, h⟩ | ⟨-, -, h⟩ | ⟨-, -, h⟩ <;> simp [h]

@[simp] theorem dedupSuppress_dd (cfg : Cfg) (dd : DedupState) (msg : Message) :
    (dedupSuppress cfg dd msg).dd = dd.remember msg := rfl

@[simp] theorem dedupSuppress_emit (cfg : Cfg) (dd : DedupState) (msg : Message) :
    (dedupSuppress cfg dd msg).emit = !sameAsPrevious cfg dd msg := rfl

/-- The policy that the configuration selects. -/
def policyOf (cfg : Cfg) : Cfg → DedupState → Message → DedupResult := if cfg.ddPolicy then dedupLock else dedupSuppress

theorem Channel.suppressStage_eq (c : Channel) : c.suppressStage = c.dedupStage (policyOf c.cfg) := by
  unfold Channel.suppressStage policyOf
  split <;> rfl

/-- Under either policy every message becomes the previous one (R176). -/
theorem policyOf_remembers (cfg : Cfg) (dd : DedupState) (msg : Message) :
    (policyOf cfg cfg dd msg).dd.prevValid = true ∧ (policyOf cfg cfg dd msg).dd.prevFld = msg.out ∧
      (policyOf cfg cfg dd msg).dd.prevTs = msg.ts := by
  unfold policyOf
  split <;> simp

/-- Under suppress-recent-identical the lock is not written (R174). -/
theorem policyOf_lock (cfg : Cfg) (dd : DedupState) (msg : Message) (h : cfg.ddPolicy = false) :
    (policyOf cfg cfg dd msg).dd.lock = dd.lock := by
  simp [policyOf, h]

/-- Without a message the suppressor changes nothing (R170). -/
theorem Channel.dedupStage_none (policy : Cfg → DedupState → Message → DedupResult) (c : Channel)
    (h : c.nets.msg = none) :
    c.dedupStage policy = { c with nets := { c.nets with emit := false, dup := false } } := by
  simp [Channel.dedupStage, h]

/-- With a message the suppressor takes it. -/
theorem Channel.dedupStage_some (policy : Cfg → DedupState → Message → DedupResult) (c : Channel) (msg : Message)
    (h : c.nets.msg = some msg) :
    c.dedupStage policy =
      { c with
        dd := (policy c.cfg c.dd msg).dd
        anom := c.anom || goesBack c.dd msg
        nets := { c.nets with emit := (policy c.cfg c.dd msg).emit, dup := !(policy c.cfg c.dd msg).emit } } := by
  simp [Channel.dedupStage, h]

end Sys2Proof.Machine
end

