-- ==== Sys2Proof/Laws/Framer.lean ====
section
/-! SUPPORT. What the check unit and the framer do, said once. -/

namespace Sys2Proof.Machine

/-! ### Bits of a field register -/

theorem getLsbD_setBit (v : Word) (p : Nat) (b : Bool) (j : Nat) (hp : p < 32) :
    (setBit v p b).getLsbD j = if j = p then b else v.getLsbD j := by
  unfold setBit
  by_cases hj : j < 32
  · have e : (1#32 <<< p).getLsbD j = decide (j = p) := by
      rw [BitVec.getLsbD_shiftLeft, BitVec.getLsbD_one]
      by_cases h : j = p
      · subst h
        simp [hj]
      · simp only [hj, h, decide_false, decide_true, Bool.true_and]
        by_cases hlt : j < p
        · simp [hlt]
        · have : j - p ≠ 0 := by omega
          simp [this]
    cases b
    · simp only [Bool.false_eq_true, if_false, BitVec.getLsbD_and, BitVec.getLsbD_not, e, hj]
      by_cases h : j = p <;> simp [h]
    · simp only [if_true, BitVec.getLsbD_or, e]
      by_cases h : j = p <;> simp [h]
  · have hj' : 32 ≤ j := by omega
    have : j ≠ p := by omega
    cases b <;> simp [BitVec.getLsbD_of_ge _ _ hj', this]

theorem covers_iff (fc : FieldCfg) (c : Nat) :
    covers fc c = true ↔ fc.en = true ∧ fc.off.toNat ≤ c ∧ c < fc.off.toNat + fc.wid.toNat := by
  simp [covers, and_assoc]

/-- The bit position of a covered offset lies in the field. -/
theorem bitPos_lt (fc : FieldCfg) (c : Nat) (h : covers fc c = true) : bitPos fc c < fc.wid.toNat := by
  obtain ⟨-, h1, h2⟩ := (covers_iff fc c).1 h
  unfold bitPos
  split <;> omega

/-- The bits of a field register after a bit is offered to it. -/
theorem getLsbD_writeField (c : Nat) (b : Bool) (fc : FieldCfg) (v : Word) (j : Nat)
    (hw : fc.en = true → fc.wid.toNat ≤ 32) :
    (writeField c b fc v).getLsbD j = if covers fc c = true ∧ j = bitPos fc c then b else v.getLsbD j := by
  unfold writeField
  by_cases h : covers fc c = true
  · have hp := bitPos_lt fc c h
    have hw' := hw ((covers_iff fc c).1 h).1
    rw [if_pos h, getLsbD_setBit _ _ _ _ (by omega)]
    simp [h]
  · simp [h]

/-! ### The check unit leaves cursor and fields alone -/

@[simp] theorem nibbleUpdate_cursor (cfg : Cfg) (f : FrmState) (b : Bool) :
    (nibbleUpdate cfg f b).cursor = f.cursor := by
  unfold nibbleUpdate
  split <;> rfl

@[simp] theorem nibbleUpdate_fld (cfg : Cfg) (f : FrmState) (b : Bool) : (nibbleUpdate cfg f b).fld = f.fld := by
  unfold nibbleUpdate
  split <;> rfl

@[simp] theorem nibbleUpdate_par (cfg : Cfg) (f : FrmState) (b : Bool) : (nibbleUpdate cfg f b).par = f.par := by
  unfold nibbleUpdate
  split <;> rfl

@[simp] theorem parityUpdate_cursor (cfg : Cfg) (f : FrmState) (b : Bool) :
    (parityUpdate cfg f b).cursor = f.cursor := by
  unfold parityUpdate
  split <;> rfl

@[simp] theorem parityUpdate_fld (cfg : Cfg) (f : FrmState) (b : Bool) : (parityUpdate cfg f b).fld = f.fld := by
  unfold parityUpdate
  split <;> rfl

@[simp] theorem ckUpdate_cursor (cfg : Cfg) (f : FrmState) (b : Bool) : (ckUpdate cfg f b).cursor = f.cursor := by
  unfold ckUpdate
  split
  · simp
  · split <;> simp

@[simp] theorem ckUpdate_fld (cfg : Cfg) (f : FrmState) (b : Bool) : (ckUpdate cfg f b).fld = f.fld := by
  unfold ckUpdate
  split
  · simp
  · split <;> simp

/-- Under SINGLE the second parity bit is unchanged by every check scheme (R147). -/
theorem ckUpdate_par_single (cfg : Cfg) (f : FrmState) (b : Bool) (h : cfg.parMode = false) :
    (ckUpdate cfg f b).par.getLsbD 1 = f.par.getLsbD 1 := by
  unfold ckUpdate
  split
  · simp
  · split
    · unfold parityUpdate parityGroup
      split
      · cases b <;> simp [h]
      · rfl
    · rfl

@[simp] theorem framePlace_cursor (cfg : Cfg) (f : FrmState) (b : Bool) :
    (framePlace cfg f b).cursor = f.cursor := by
  simp [framePlace]

@[simp] theorem framePlace_fld (cfg : Cfg) (f : FrmState) (b : Bool) :
    (framePlace cfg f b).fld = fieldWrite cfg f.fld f.cursor.toNat b := by
  simp [framePlace]

@[simp] theorem fieldWrite_get (cfg : Cfg) (fld : Eight Word) (c : Nat) (b : Bool) (i : Fin 8) :
    (fieldWrite cfg fld c b).get i = writeField c b (cfg.fld.get i) (fld.get i) := by
  simp [fieldWrite]

@[simp] theorem sextAll_get (cfg : Cfg) (fld : Eight Word) (i : Fin 8) :
    (sextAll cfg fld).get i = messageField (cfg.fld.get i) (fld.get i) := by
  simp [sextAll]

/-- The nibble register with a bit shifted in, as a number (R145). -/
theorem nibble_shift (a : BitVec 4) (b : Bool) :
    (a.extractLsb' 0 3 ++ BitVec.ofBool b).toNat = (2 * a.toNat + b.toNat) % 16 := by
  revert a b
  decide

/-- The parity bits with the bit of one group toggled (R147). -/
theorem parity_toggle (p : BitVec 2) (b : Bool) (k g : Nat) (hk : k < 2) (hg : g < 2) :
    (p ^^^ ((BitVec.ofBool b).setWidth 2 <<< k)).getLsbD g = if g = k then p.getLsbD g ^^ b else p.getLsbD g := by
  revert p b
  interval_cases k <;> interval_cases g <;> decide

/-- The final check, scheme by scheme (R146, R148, R149). -/
theorem ckFinal_iff (cfg : Cfg) (f : FrmState) :
    ckFinal cfg f = true ↔
      (cfg.ckScheme = 0b01#2 → f.ckAcc = (f.fld.get cfg.ckField.toFin).extractLsb' 0 4) ∧
      (cfg.ckScheme = 0b10#2 → f.par.getLsbD 0 = cfg.parExp.getLsbD 0 ∧
        (cfg.parMode = true → f.par.getLsbD 1 = cfg.parExp.getLsbD 1)) := by
  unfold ckFinal
  by_cases h1 : cfg.ckScheme = 1#2
  · simp [h1, nibblePass]
  · by_cases h2 : cfg.ckScheme = 2#2
    · simp [h2, parityPass, imp_iff_not_or]
    · simp [h1, h2]

/-! ### FRAME_APPLY -/

theorem atLast_iff (cfg : Cfg) (f : FrmState) : atLast cfg f = true ↔ f.cursor.toNat + 1 = cfg.nBits.toNat := by
  simp [atLast]

/-- An invalid bit does nothing (R136). -/
theorem frameApply_invalid (cfg : Cfg) (f : FrmState) (bit : BitBus) (ts : Timestamp) (h : bit.valid = false) :
    frameApply cfg f bit ts = { frm := f, msg := none, resync := false, abort := false, ckfail := false } := by
  simp [frameApply, h]

theorem frameApply_valid (cfg : Cfg) (f : FrmState) (bit : BitBus) (ts : Timestamp) (h : bit.valid = true) :
    frameApply cfg f bit ts = frameFrom cfg (frameEnter cfg f bit) bit.value ts (resyncs f bit) := by
  simp [frameApply, h]

/-- Everything FRAME_APPLY can do from the effective cursor on: abort, complete with a message, complete with a failed
check, or go on. -/
theorem frameFrom_cases (cfg : Cfg) (f : FrmState) (b : Bool) (ts : Timestamp) (r : Bool) :
    (preambleMismatch cfg f b = true ∧ frameFrom cfg f b ts r =
      { frm := { f with cursor := 0 }, msg := none, resync := r, abort := true, ckfail := false }) ∨
    (preambleMismatch cfg f b = false ∧ atLast cfg f = true ∧ ckFinal cfg (framePlace cfg f b) = true ∧
      frameFrom cfg f b ts r =
        { frm := { framePlace cfg f b with cursor := 0 }, msg := some ⟨sextAll cfg (framePlace cfg f b).fld, ts⟩
          resync := r, abort := false, ckfail := false }) ∨
    (preambleMismatch cfg f b = false ∧ atLast cfg f = true ∧ ckFinal cfg (framePlace cfg f b) = false ∧
      frameFrom cfg f b ts r =
        { frm := { framePlace cfg f b with cursor := 0 }, msg := none, resync := r, abort := false, ckfail := true }) ∨
    (preambleMismatch cfg f b = false ∧ atLast cfg f = false ∧
      frameFrom cfg f b ts r =
        { frm := { framePlace cfg f b with cursor := f.cursor + 1 }, msg := none, resync := r, abort := false
          ckfail := false }) := by
  cases hp : preambleMismatch cfg f b <;> cases hl : atLast cfg f <;>
    cases hc : ckFinal cfg (framePlace cfg f b) <;> simp [frameFrom, hp, hl, hc]

/-- FRAME_APPLY gives a message, a failed check, an abort, or none of them, and never two (R203). -/
theorem frameApply_exclusive (cfg : Cfg) (f : FrmState) (bit : BitBus) (ts : Timestamp) :
    ((frameApply cfg f bit ts).msg = none ∧
      ((frameApply cfg f bit ts).abort = true → (frameApply cfg f bit ts).ckfail = false)) ∨
    ((∃ m, (frameApply cfg f bit ts).msg = some m ∧ m.ts = ts) ∧ (frameApply cfg f bit ts).abort = false ∧
      (frameApply cfg f bit ts).ckfail = false) := by
  cases hv : bit.valid
  · rw [frameApply_invalid _ _ _ _ hv]
    simp
  · rw [frameApply_valid _ _ _ _ hv]
    rcases frameFrom_cases cfg (frameEnter cfg f bit) bit.value ts (resyncs f bit) with
      ⟨-, e⟩ | ⟨-, -, -, e⟩ | ⟨-, -, -, e⟩ | ⟨-, -, e⟩ <;> rw [e] <;> simp

/-- The state a valid bit finds is the telegram's start or the telegram in progress. -/
theorem frameEnter_cases (cfg : Cfg) (f : FrmState) (bit : BitBus) :
    ((bit.instream = false ∨ f.cursor = 0#6) ∧ frameEnter cfg f bit = frameStart cfg) ∨
    (bit.instream = true ∧ f.cursor ≠ 0#6 ∧ resyncs f bit = false ∧ frameEnter cfg f bit = f) := by
  by_cases h : f.cursor = 0#6 <;> cases hi : bit.instream <;> simp [frameEnter, resyncs, h, hi]

/-! ### Field registers fit their fields -/

/-- Every field register of the framer fits its field (R39). -/
def FieldsFit (cfg : Cfg) (fld : Eight Word) : Prop :=
  ∀ i, ((cfg.fld.get i).en = false → fld.get i = 0) ∧
    ((cfg.fld.get i).en = true → (fld.get i).toNat < 2 ^ (cfg.fld.get i).wid.toNat)

theorem toNat_lt_of_getLsbD (v : Word) (w : Nat) (h : ∀ j, w ≤ j → v.getLsbD j = false) : v.toNat < 2 ^ w := by
  apply Nat.lt_pow_two_of_testBit
  intro j hj
  exact h j hj

theorem getLsbD_of_toNat_lt (v : Word) (w : Nat) (h : v.toNat < 2 ^ w) (j : Nat) (hj : w ≤ j) :
    v.getLsbD j = false := by
  exact Nat.testBit_lt_two_pow (lt_of_lt_of_le h (Nat.pow_le_pow_right (by decide) hj))

/-- Writing a bit keeps the field registers within their fields. -/
theorem FieldsFit.fieldWrite {cfg : Cfg} {fld : Eight Word} (h : FieldsFit cfg fld)
    (hw : ∀ i, (cfg.fld.get i).en = true → (cfg.fld.get i).wid.toNat ≤ 32) (c : Nat) (b : Bool) :
    FieldsFit cfg (fieldWrite cfg fld c b) := by
  intro i
  rw [fieldWrite_get]
  constructor
  · intro he
    have : covers (cfg.fld.get i) c = false := by simp [covers, he]
    simp [writeField, this, (h i).1 he]
  · intro he
    apply toNat_lt_of_getLsbD
    intro j hj
    rw [getLsbD_writeField _ _ _ _ _ (hw i)]
    split
    next hc =>
      have := bitPos_lt _ _ hc.1
      omega
    next => exact getLsbD_of_toNat_lt _ _ ((h i).2 he) j hj

theorem FieldsFit.zero (cfg : Cfg) : FieldsFit cfg (Eight.replicate 0) := by
  intro i
  simp

end Sys2Proof.Machine
end

