-- ==== Sys2Proof/Laws/Sample.lean ====
section
/-! SUPPORT. What one sample does to one channel, said once, from the results of its units. -/

namespace Sys2Proof.Machine

/-- The bit and the decoder state that a sample with duration d gives in a channel. -/
def Channel.decoded (c : Channel) (d : Word) : BitBus × DecState :=
  if c.cfg.family = 0#2 then psDecode c.dec (matchBits d c.cfg.win)
  else bmcDecode c.cfg c.dec d.toNat (matchBits d c.cfg.win)

/-- The framer's result of a sample. -/
def Channel.framed (c : Channel) (d : Word) (ts : Timestamp) : FrameResult :=
  frameApply c.cfg c.frm (c.decoded d).1 ts

theorem Channel.decoded_bus (c : Channel) (d : Word) :
    (c.decoded d).1 = BitBus.none ∨ ∃ v i, (c.decoded d).1 = BitBus.bit v i := by
  unfold Channel.decoded
  split
  · exact psDecode_bus _ _
  · exact bmcDecode_bus _ _ _ _

theorem Channel.sample_inactive (c : Channel) (d : Word) (ts : Timestamp) (h : c.active = false) :
    c.sample d ts = c.quiet := by
  simp [Channel.sample, h]

/-- The channel after the decoder and the framer of a sample. -/
theorem Channel.frameStage_decodeStage (c : Channel) (d : Word) (ts : Timestamp) :
    (((c.drive d).classify).decodeStage).frameStage ts =
      { c with
        dec := (c.decoded d).2
        frm := (c.framed d ts).frm
        nets :=
          { Nets.idle with
            d := d
            m := matchBits d c.cfg.win
            bit := (c.decoded d).1
            msg := (c.framed d ts).msg
            resync := (c.framed d ts).resync
            abort := (c.framed d ts).abort
            ckfail := (c.framed d ts).ckfail } } := by
  by_cases h : c.cfg.family = 0#2 <;>
    simp [Channel.decodeStage, Channel.frameStage, Channel.psStage, Channel.bmcStage, Channel.classify,
      Channel.drive, Channel.framed, Channel.decoded, h]

/-- A sample that frames no message: the decoder and the framer change, the suppressor does not, and the message
outputs hold. -/
theorem Channel.sample_none (c : Channel) (d : Word) (ts : Timestamp) (ha : c.active = true)
    (h : (c.framed d ts).msg = none) :
    c.sample d ts =
      { c with
        dec := (c.decoded d).2
        frm := (c.framed d ts).frm
        out :=
          { c.out with
            bit := (c.decoded d).1.toBits
            frmValid := false
            emit := false
            evtResync := (c.framed d ts).resync
            evtAbort := (c.framed d ts).abort
            evtCkfail := (c.framed d ts).ckfail
            evtDup := false
            anom := c.anom }
        nets := Nets.idle } := by
  rw [Channel.sample, if_pos ha, Channel.frameStage_decodeStage, Channel.suppressStage_eq,
    Channel.dedupStage_none _ _ (by simpa using h)]
  simp [Channel.latch, h]

/-- A sample that frames a message: the suppressor takes it, and the message outputs show it. -/
theorem Channel.sample_some (c : Channel) (d : Word) (ts : Timestamp) (msg : Message) (ha : c.active = true)
    (h : (c.framed d ts).msg = some msg) :
    c.sample d ts =
      { c with
        dec := (c.decoded d).2
        frm := (c.framed d ts).frm
        dd := (policyOf c.cfg c.cfg c.dd msg).dd
        anom := c.anom || goesBack c.dd msg
        out :=
          { bit := (c.decoded d).1.toBits
            frmValid := true
            frmFld := msg.out
            frmTs := msg.ts
            frmCkOk := true
            emit := (policyOf c.cfg c.cfg c.dd msg).emit
            outFld := if (policyOf c.cfg c.cfg c.dd msg).emit then msg.out else c.out.outFld
            outTs := if (policyOf c.cfg c.cfg c.dd msg).emit then msg.ts else c.out.outTs
            evtResync := (c.framed d ts).resync
            evtAbort := (c.framed d ts).abort
            evtCkfail := (c.framed d ts).ckfail
            evtDup := !(policyOf c.cfg c.cfg c.dd msg).emit
            anom := c.anom || goesBack c.dd msg }
        nets := Nets.idle } := by
  rw [Channel.sample, if_pos ha, Channel.frameStage_decodeStage, Channel.suppressStage_eq,
    Channel.dedupStage_some _ _ msg (by simpa using h)]
  simp [Channel.latch, h]

/-- What the output registers take at the end of a sample, output by output (R186). -/
theorem Channel.latch_eq (c : Channel) :
    c.latch =
      { c with
        out :=
          { bit := c.nets.bit.toBits
            frmValid := c.nets.msg.isSome
            frmFld := (c.nets.msg.map Message.out).getD c.out.frmFld
            frmTs := (c.nets.msg.map Message.ts).getD c.out.frmTs
            frmCkOk := c.nets.msg.isSome || c.out.frmCkOk
            emit := c.nets.emit
            outFld := if c.nets.emit then (c.nets.msg.map Message.out).getD c.out.outFld else c.out.outFld
            outTs := if c.nets.emit then (c.nets.msg.map Message.ts).getD c.out.outTs else c.out.outTs
            evtResync := c.nets.resync
            evtAbort := c.nets.abort
            evtCkfail := c.nets.ckfail
            evtDup := c.nets.dup
            anom := c.anom }
        nets := Nets.idle } := by
  unfold Channel.latch
  cases c.nets.msg <;> cases c.nets.emit <;> rfl

/-- Everything a sample can do to a channel. -/
theorem Channel.sample_cases (c : Channel) (d : Word) (ts : Timestamp) :
    (c.active = false ∧ c.sample d ts = c.quiet) ∨
    (c.active = true ∧ (c.framed d ts).msg = none) ∨
    (c.active = true ∧ ∃ msg, (c.framed d ts).msg = some msg) := by
  cases ha : c.active
  · exact .inl ⟨rfl, c.sample_inactive d ts ha⟩
  · cases hm : (c.framed d ts).msg
    · exact .inr (.inl ⟨rfl, rfl⟩)
    · exact .inr (.inr ⟨rfl, _, rfl⟩)

/-- A sample leaves in an active channel the decoder state and the bit its decoder gave. -/
theorem Channel.sample_decoded (c : Channel) (d : Word) (ts : Timestamp) (ha : c.active = true) :
    (c.sample d ts).dec = (c.decoded d).2 ∧ (c.sample d ts).out.bit = (c.decoded d).1.toBits := by
  rcases c.sample_cases d ts with ⟨hb, -⟩ | ⟨-, hm⟩ | ⟨-, msg, hm⟩
  · rw [ha] at hb
    cases hb
  · rw [c.sample_none _ _ ha hm]
    exact ⟨rfl, rfl⟩
  · rw [c.sample_some _ _ msg ha hm]
    exact ⟨rfl, rfl⟩

end Sys2Proof.Machine
end

