-- ==== Sys2Proof/Laws/Step.lean ====
section
/-! SUPPORT. What each command and each step can do, said once. -/

namespace Sys2Proof.Machine

/-- Every instruction acts on the channels one by one, and on `cmd_err` at most. -/
def effectOf (i : Instr) (sampleW : Nat) (ts : Timestamp) : Channel → Channel :=
  match i with
  | .nop _ => Channel.quiet
  | .sample data => Channel.sample (duration sampleW data) ts
  | .rsv2 _ => Channel.quiet
  | .rsv3 _ => Channel.quiet
  | .winMatch => fun c => if c.active && true then c.classify else c
  | .psDecode => fun c => if c.active && selPs c.cfg then c.psStage else c
  | .bmcDecode => fun c => if c.active && selBmc c.cfg then c.bmcStage else c
  | .frameApply => fun c => if c.active && true then c.frameStage ts else c
  | .chkNone => fun c => if c.active && selChkNone c.cfg then c.checkStage (fun _ f _ => f) (fun _ _ => true) else c
  | .chkNibbleSub => fun c => if c.active && selChkNibble c.cfg then c.checkStage nibbleUpdate nibblePass else c
  | .chkXorParity => fun c => if c.active && selChkParity c.cfg then c.checkStage parityUpdate parityPass else c
  | .dedupSuppress => fun c => if c.active && selSuppress c.cfg then c.dedupStage dedupSuppress else c
  | .dedupLock => fun c => if c.active && selLock c.cfg then c.dedupStage dedupLock else c

/-- exec of every instruction: a next state, with its effect done in every channel and the command-error flag raised
by the reserved commands. -/
theorem exec_eq (i : Instr) (s : State) :
    exec i s = .next (if i.isReserved then (s.onEach (effectOf i s.sampleW s.tsNow)).raiseCmdErr
      else s.onEach (effectOf i s.sampleW s.tsNow)) := by
  cases i <;> rfl

/-- exec of every instruction, seen at one channel. -/
theorem exec_channel (i : Instr) (s : State) :
    ∃ t : State, exec i s = .next t ∧
      ∀ k : Nat, t.chans[k]? = (s.chans[k]?).map (effectOf i s.sampleW s.tsNow) := by
  rw [exec_eq]
  refine ⟨_, rfl, fun k => ?_⟩
  split <;> simp

/-- No instruction changes a channel's configuration. -/
theorem effectOf_cfg (i : Instr) (w : Nat) (ts : Timestamp) (c : Channel) : (effectOf i w ts c).cfg = c.cfg := by
  cases i <;> simp only [effectOf, Channel.sample_cfg, Channel.quiet_cfg] <;> split <;> simp

/-- A command word decodes to a command. -/
theorem decodeCommand_isCommand (w : BitVec 34) : (decodeCommand w).isCommand = true := by
  unfold decodeCommand
  split
  · rfl
  · split
    · rfl
    · split <;> rfl

/-- Everything a command does in a channel: it is a sample, or the channel goes quiet. -/
theorem effectOf_command (i : Instr) (w : Nat) (ts : Timestamp) (h : i.isCommand = true) :
    effectOf i w ts = Channel.quiet ∨ ∃ data, i = .sample data ∧ effectOf i w ts = Channel.sample (duration w data) ts := by
  cases i <;> simp_all [effectOf, Instr.isCommand]

/-- Everything a step can do. -/
theorem step_cases (s : State) :
    (s.cfgChanged = true ∧ step s = .refused .cfgChangedWhileRunning) ∨
    (s.cfgChanged = false ∧ s.cycle.rst = true ∧ step s = .next s.beginCycle.doReset) ∨
    (s.cfgChanged = false ∧ s.cycle.rst = false ∧ step s = exec (decodeCommand s.cycle.cmd) s.beginCycle) := by
  cases h : s.cfgChanged <;> cases hr : s.cycle.rst <;> simp [step, h, hr]

/-- With a configuration not changed, the cycle begins with the same channels. -/
theorem beginCycle_chans (s : State) (h : s.cfgChanged = false) (hr : s.cycle.rst = false) :
    s.beginCycle.chans = s.chans := by
  have hc : (s.withCfg s.cycle.cfg).chans.map Channel.cfg = s.chans.map Channel.cfg := by
    simpa [State.cfgChanged, hr] using h
  have e : s.beginCycle.chans = (s.withCfg s.cycle.cfg).chans := by
    unfold State.beginCycle State.withCfg
    split <;> rfl
  rw [e]
  unfold State.withCfg at hc ⊢
  split
  next l hl =>
    simp only [hl] at hc
    apply List.ext_getElem?
    intro k
    have hk := congrArg (fun l : List Cfg => l[k]?) hc
    simp only [List.getElem?_map, driveCfg_getElem?, Option.map_map, Function.comp_def] at hk
    rw [driveCfg_getElem?]
    cases hs : s.chans[k]? with
    | none => rfl
    | some c =>
      simp only [hs, Option.map_some, Option.some.injEq] at hk ⊢
      rw [hk]
  next => rfl

@[simp] theorem beginCycle_sampleW (s : State) : s.beginCycle.sampleW = s.sampleW := by
  unfold State.beginCycle State.withCfg
  split <;> rfl

@[simp] theorem beginCycle_tsNow (s : State) : s.beginCycle.tsNow = s.cycle.ts := by
  unfold State.beginCycle State.withCfg
  split <;> rfl

@[simp] theorem beginCycle_pending (s : State) : s.beginCycle.pending = s.pending.tail := by
  unfold State.beginCycle State.withCfg
  split <;> rfl

@[simp] theorem beginCycle_cmdErr (s : State) : s.beginCycle.cmdErr = s.cmdErr := by
  unfold State.beginCycle State.withCfg
  split <;> rfl

@[simp] theorem beginCycle_oCmdErr (s : State) : s.beginCycle.oCmdErr = s.oCmdErr := by
  unfold State.beginCycle State.withCfg
  split <;> rfl

/-- The number of channels never changes. -/
theorem beginCycle_length (s : State) : s.beginCycle.chans.length = s.chans.length := by
  unfold State.beginCycle State.withCfg
  split
  · exact driveCfg_length _ _
  · rfl

end Sys2Proof.Machine
end

