-- ==== Sys2Proof/Laws/Claims.lean ====
section
/-! SUPPORT. How the terms of Safety.lean are met: a claim about a unit operation or a sample in every state follows
from the claim about one channel. -/

namespace Sys2Proof.Machine

theorem selected_iff (sel : Cfg → Prop) (c : Channel) : Selected sel c ↔ c.active = true ∧ sel c.cfg := by
  simp [Selected, Channel.active, and_assoc]

/-- A claim about a unit operation follows from the claim about a selected channel. -/
theorem UnitOperation.of_channel {i : Instr} {sel : Cfg → Prop} {P : State → Channel → Channel → Prop}
    (selB : Cfg → Bool) (f : State → Channel → Channel)
    (hexec : ∀ s, exec i s = .next (s.onSelected selB (f s))) (hsel : ∀ cfg, selB cfg = true ↔ sel cfg)
    (hP : ∀ s c, Selected sel c → P s c (f s c)) : UnitOperation i sel P := by
  intro s
  refine ⟨_, hexec s, rfl, by simp, fun k c hc => ⟨_, by rw [State.onSelected_getElem?, hc]; rfl, ?_, ?_⟩⟩
  · intro hn
    rw [selected_iff, ← hsel] at hn
    exact if_neg (by simpa using hn)
  · intro hs
    have h2 := hs
    rw [selected_iff, ← hsel] at h2
    simpa [h2.1, h2.2] using hP s c hs

/-- A claim about a sample follows from the claim about a selected channel. -/
theorem SampleOperation.of_channel {sel : Cfg → Prop} {P : State → Word → Channel → Channel → Prop}
    (hP : ∀ (s : State) (d : Word) (c : Channel), c.active = true → sel c.cfg → P s d c (c.sample d s.tsNow)) :
    SampleOperation sel P := by
  intro data s
  refine ⟨_, rfl, rfl, by simp, fun k c hc hs => ⟨_, by rw [State.onEach_getElem?, hc]; rfl, by simp, ?_⟩⟩
  rw [selected_iff] at hs
  exact hP s _ c hs.1 hs.2

/-- The state a valid bit finds is the telegram entry of Safety.lean. -/
theorem frameEnter_eq (cfg : Cfg) (f : FrmState) (bit : BitBus) : frameEnter cfg f bit = telegramEntry cfg f bit := by
  by_cases h : f.cursor = 0#6 <;> cases hi : bit.instream <;>
    simp [frameEnter, telegramEntry, resyncs, frameStart, h, hi]

theorem preambleMismatch_iff (cfg : Cfg) (e : FrmState) (bit : BitBus) :
    preambleMismatch cfg e bit.value = true ↔ PreambleRefuses cfg e bit := by
  simp [preambleMismatch, PreambleRefuses]

theorem resyncs_eq (f : FrmState) (bit : BitBus) : resyncs f bit = (decide (f.cursor ≠ 0#6) && !bit.instream) := by
  by_cases h : f.cursor = 0#6 <;> simp [resyncs, h]

theorem identical_iff (cfg : Cfg) (u v : Eight Word) : fieldsIdentical cfg u v = true ↔ Identical cfg u v :=
  fieldsIdentical_iff cfg u v

/-! ### The nibbles of a telegram, a bit at a time (R145) -/

theorem maskedBits_snoc (cfg : Cfg) (bs : List Bool) (b : Bool) :
    maskedBits cfg (bs ++ [b]) = maskedBits cfg bs ++ (if cfg.ckMask.getLsbD bs.length then [b] else []) := by
  unfold maskedBits
  rw [List.zipIdx_append, List.filter_append, List.map_append]
  congr 1
  simp only [List.zipIdx_cons, List.zipIdx_nil, List.filter_cons, List.filter_nil, Nat.zero_add]
  split <;> simp_all

theorem lastNibble_snoc (bs : List Bool) (b : Bool) : lastNibble (bs ++ [b]) = (2 * lastNibble bs + b.toNat) % 16 := by
  simp [lastNibble]

theorem nibbleSum_snoc_from (b : Bool) : ∀ (l : List Bool) (n : Nat),
    nibbleSum (l ++ [b]) = nibbleSum l +
      if l.length % 4 = 3 then (2 * l.foldl (fun n b => (2 * n + b.toNat) % 16) n + b.toNat) % 16 else 0
  | [], n => by simp [nibbleSum]
  | [x], n => by simp [nibbleSum]
  | [x, y], n => by simp [nibbleSum]
  | [x, y, z], n => by cases x <;> cases y <;> cases z <;> cases b <;> simp [nibbleSum] <;> omega
  | w :: x :: y :: z :: l, n => by
    simp only [List.cons_append, nibbleSum, List.foldl_cons, List.length_cons,
      nibbleSum_snoc_from b l
        ((2 * ((2 * ((2 * ((2 * n + w.toNat) % 16) + x.toNat) % 16) + y.toNat) % 16) + z.toNat) % 16),
      show (l.length + 1 + 1 + 1 + 1) % 4 = l.length % 4 by omega]
    omega

/-- A bit that is the fourth of its nibble adds that nibble, and no other bit adds anything. -/
theorem nibbleSum_snoc (l : List Bool) (b : Bool) :
    nibbleSum (l ++ [b]) = nibbleSum l + if l.length % 4 = 3 then lastNibble (l ++ [b]) else 0 := by
  rw [nibbleSum_snoc_from b l 0, lastNibble_snoc]
  rfl

end Sys2Proof.Machine
end

