-- ==== Sys2Proof/Laws/Encoding.lean ====
section
/-! SUPPORT. The command word and its two fields as numbers. -/

namespace Sys2Proof

theorem commandWord_toNat (op : BitVec 2) (data : Word) :
    (commandWord op data).toNat = op.toNat * 2 ^ 32 + data.toNat := by
  unfold commandWord
  rw [BitVec.toNat_append, ← Nat.shiftLeft_add_eq_or_of_lt data.isLt, Nat.shiftLeft_eq]

theorem cmdOp_toNat (w : BitVec 34) : (cmdOp w).toNat = w.toNat / 2 ^ 32 := by
  unfold cmdOp
  rw [BitVec.extractLsb'_toNat, Nat.shiftRight_eq_div_pow]
  have := w.isLt
  omega

theorem cmdData_toNat (w : BitVec 34) : (cmdData w).toNat = w.toNat % 2 ^ 32 := by
  unfold cmdData
  rw [BitVec.extractLsb'_toNat, Nat.shiftRight_zero]

@[simp] theorem cmdOp_commandWord (op : BitVec 2) (data : Word) : cmdOp (commandWord op data) = op := by
  apply BitVec.eq_of_toNat_eq
  have := data.isLt
  rw [cmdOp_toNat, commandWord_toNat]
  omega

@[simp] theorem cmdData_commandWord (op : BitVec 2) (data : Word) : cmdData (commandWord op data) = data := by
  apply BitVec.eq_of_toNat_eq
  have := data.isLt
  rw [cmdData_toNat, commandWord_toNat]
  omega

/-- A command word is its two fields. -/
theorem commandWord_fields (w : BitVec 34) : commandWord (cmdOp w) (cmdData w) = w := by
  apply BitVec.eq_of_toNat_eq
  rw [commandWord_toNat, cmdOp_toNat, cmdData_toNat]
  omega

/-- The two op bits of a command word, masked out of it. -/
theorem commandWord_masked (op : BitVec 2) (data : Word) :
    (commandWord op data).toNat &&& 0x300000000 = op.toNat * 2 ^ 32 := by
  have h3 : (0x300000000 : Nat) = 3 * 2 ^ 32 := by decide
  apply Nat.eq_of_testBit_eq
  intro j
  rw [Nat.testBit_and, commandWord_toNat, h3, Nat.testBit_mul_two_pow, Nat.testBit_mul_two_pow,
    Nat.mul_comm, Nat.testBit_two_pow_mul_add _ data.isLt]
  by_cases hj : j < 32
  · have : ¬ 32 ≤ j := by omega
    simp [this]
  · have h32 : 32 ≤ j := by omega
    simp only [hj, if_false, h32, decide_true, Bool.true_and]
    have hop := op.isLt
    by_cases h2 : j - 32 < 2
    · have : j - 32 = 0 ∨ j - 32 = 1 := by omega
      rcases this with h | h <;> simp [h, show Nat.testBit 3 1 = true by decide]
    · have : op.toNat.testBit (j - 32) = false :=
        Nat.testBit_lt_two_pow (lt_of_lt_of_le hop (Nat.pow_le_pow_right (by decide) (by omega)))
      simp [this]

end Sys2Proof
end

