-- ==== Sys2Proof/Laws/PerInstr.lean ====
section
/-! SUPPORT. The statements made instruction by instruction: the encoded bits of an instruction lie in its own row of
spec/opcode_table.json. -/

namespace Sys2Proof.Laws.TableRow

open Sys2Proof

/-- The bits of the instruction's code, masked with its row's mask, are its row's match value. -/
def Statement (i : Instr) : Prop := (encode i).bits &&& (tableRow i).1 = (tableRow i).2

theorem nop (data : Word) : Statement (.nop data) := commandWord_masked 0 data
theorem sample (data : Word) : Statement (.sample data) := commandWord_masked 1 data
theorem rsv2 (data : Word) : Statement (.rsv2 data) := commandWord_masked 2 data
theorem rsv3 (data : Word) : Statement (.rsv3 data) := commandWord_masked 3 data
theorem winMatch : Statement .winMatch := rfl
theorem psDecode : Statement .psDecode := rfl
theorem bmcDecode : Statement .bmcDecode := rfl
theorem frameApply : Statement .frameApply := rfl
theorem chkNone : Statement .chkNone := rfl
theorem chkNibbleSub : Statement .chkNibbleSub := rfl
theorem chkXorParity : Statement .chkXorParity := rfl
theorem dedupSuppress : Statement .dedupSuppress := rfl
theorem dedupLock : Statement .dedupLock := rfl

end Sys2Proof.Laws.TableRow
end

