-- ==== Sys2Proof/Tests/Slice0.lean ====
section
/-! SUPPORT. The model's own tests: what the checks of WellFormed and of LEGAL refuse, the decoding of words and
selector codes written out from spec/30_encoding.md, vectors of spec/95_test_vectors.md run as single steps (the id of
each in its comment), and for each statement with hypotheses a witness that meets them. -/

namespace Sys2Proof.Tests.Slice0

open Sys2Proof Sys2Proof.Machine

/-! ### Helpers: the configurations of spec/95_test_vectors.md section 0, and small states -/

def off : FieldCfg := FieldCfg.zero

/-- EX-PS8. -/
def exPs8 : Cfg :=
  { Cfg.zero with
    en := true, family := 0, win := ⟨⟨500, 100⟩, ⟨1000, 200⟩, ⟨2000, 300⟩, ⟨0, 0⟩⟩, nBits := 8, preMask := 0x03
    preVal := 0x01
    fld := ⟨⟨true, 2, 4, true, true, 16, true⟩, ⟨true, 6, 2, true, false, 0, true⟩, off, off, off, off, off, off⟩
    ckScheme := 2, ckMask := 0xFC, ddInterval := 1000000 }

/-- EX-PS8L. -/
def exPs8L : Cfg := { exPs8 with ddPolicy := true }

/-- EX-BMC4. -/
def exBmc4 : Cfg :=
  { Cfg.zero with
    en := true, family := 1, lpfEn := true, win := ⟨⟨500, 150⟩, ⟨1000, 200⟩, ⟨0, 0⟩, ⟨0, 0⟩⟩, nBits := 4
    fld := ⟨⟨true, 0, 4, true, false, 0, true⟩, off, off, off, off, off, off, off⟩
    ddInterval := 1000000, ddPolicy := true }

/-- EX-BMC0. -/
def exBmc0 : Cfg := { exBmc4 with lpfEn := false }

/-- EX-NIB. -/
def exNib : Cfg :=
  { exPs8 with
    nBits := 12, preMask := 0, preVal := 0
    fld := ⟨⟨true, 0, 8, true, false, 0, true⟩, ⟨true, 8, 4, true, false, 0, false⟩, off, off, off, off, off, off⟩
    ckScheme := 1, ckMask := 0x0FF, ckInit := 0xF, ckField := 1 }

/-- EX-PAR2. -/
def exPar2 : Cfg :=
  { exPs8 with
    nBits := 4, preMask := 0, preVal := 0, fld := ⟨off, off, off, off, off, off, off, off⟩
    ckScheme := 2, parMode := true, parExp := 0b10, ckMask := 0x0F }

/-- EX-P4. -/
def exP4 : Cfg := { exPar2 with preMask := 0x8, preVal := 0x8, ckScheme := 0, parMode := false, parExp := 0, ckMask := 0 }

/-- EX-N1. -/
def exN1 : Cfg :=
  { exP4 with
    nBits := 1, preMask := 0, preVal := 0
    fld := ⟨⟨true, 0, 1, true, false, 0, true⟩, off, off, off, off, off, off, off⟩ }

/-- A block of one channel, `ts_now` 42. -/
def blk (c : Channel) : State :=
  { sampleW := 24, chans := [c], cmdErr := false, oCmdErr := false, tsNow := 42, pending := [] }

/-- What is seen in the next state. -/
def see {α : Type} (f : State → α) (o : Host.Outcome State Fault Refusal) : Option α :=
  match o with
  | .next t => some (f t)
  | .fault _ => none
  | .refused _ => none

/-- What is seen in channel 0 of the next state. -/
def see0 {α : Type} (f : Channel → α) (o : Host.Outcome State Fault Refusal) : Option α :=
  match o with
  | .next t => t.chans.head?.map f
  | .fault _ => none
  | .refused _ => none

/-- A channel with a decoder state. -/
def decCh (cfg : Cfg) (ps : PsState) (half cont : Bool) : Channel := { Channel.initial cfg with dec := ⟨ps, half, cont⟩ }

/-- A framer state with a cursor, the fields 0 and 1, and parity bits. -/
def frm (cursor : BitVec 6) (f0 f1 : Word) (par : BitVec 2) : FrmState :=
  { cursor := cursor, fld := ⟨f0, f1, 0, 0, 0, 0, 0, 0⟩, ckAcc := 0, ckNib := 0, ckCnt := 0, par := par }

/-- A channel with a framer state and a bit on its bus. -/
def frmCh (cfg : Cfg) (f : FrmState) (bit : BitBus) : Channel :=
  { Channel.initial cfg with frm := f, nets := { Nets.idle with bit := bit } }

/-- The message with one field value, and the suppressor's state after it. -/
def msg1 (v : Word) (ts : Timestamp) : Message := ⟨⟨v, 0, 0, 0, 0, 0, 0, 0⟩, ts⟩

def prev1 (v : Word) (ts : Timestamp) (lock : Bool) : DedupState := ⟨true, ⟨v, 0, 0, 0, 0, 0, 0, 0⟩, ts, lock⟩

/-- A channel with a suppressor state and a message on its net. -/
def ddCh (cfg : Cfg) (dd : DedupState) (m : Message) : Channel :=
  { Channel.initial cfg with dd := dd, nets := { Nets.idle with msg := some m } }

/-- A cycle with a command word. -/
def cyc (rst : Bool) (cmd : BitVec 34) (ts : Timestamp) : HostCycle := { rst := rst, cmd := cmd, ts := ts, cfg := none }

/-! ### WellFormed refuses what it should -/

theorem test_wf_refuses_reserved2 : (Instr.rsv2 0).wf = false := by decide
theorem test_wf_refuses_reserved3 : (Instr.rsv3 5).wf = false := by decide
theorem test_wf_refuses_unit_operation : Instr.winMatch.wf = false := by decide
theorem test_wf_accepts_sample : (Instr.sample 500).wf = true := by decide
theorem test_host_refuses_reserved : HostProgram.wf 0 [cyc false 0x200000000#34 0] = false := by decide
theorem test_host_allows_reserved_in_reset : HostProgram.wf 0 [cyc true 0x300000000#34 0] = true := by decide
theorem test_host_refuses_cfg_change : HostProgram.wf 0 [⟨false, 0, 0, some [exPs8]⟩] = false := by decide
theorem test_host_refuses_time_going_back :
    HostProgram.wf 0 [cyc false 0x1000001F4#34 5, cyc false 0x1000001F4#34 4] = false := by decide
/-- CM-8: a NOP's timestamp is not read. -/
theorem test_host_allows_nop_time_going_back :
    HostProgram.wf 0 [cyc false 0x1000001F4#34 5, cyc false 0 0, cyc false 0x1000001F4#34 5] = true := by decide

/-! ### LEGAL, LG-1 to LG-18 -/

/-- EX-PS8 with field 0, or field 1, changed. -/
def withF0 (f : FieldCfg) : Cfg := { exPs8 with fld := { exPs8.fld with f0 := f } }
def withF1 (f : FieldCfg) : Cfg := { exPs8 with fld := { exPs8.fld with f1 := f } }

/-- LG-1, LG-16, LG-18. -/
theorem test_legal_accepts : legal exPs8 = true ∧ legal (withF0 ⟨true, 2, 4, true, false, 3, true⟩) = true ∧
    legal { exPs8 with ckMask := 0x03 } = true := by decide
theorem test_legal_others : legal exPs8L = true ∧ legal exBmc4 = true ∧ legal exBmc0 = true ∧ legal exNib = true ∧
    legal exPar2 = true ∧ legal exP4 = true ∧ legal exN1 = true := by decide
/-- LG-15. -/
theorem test_legal_refuses_L1 : legal { exPs8 with family := 3 } = false := by decide
/-- LG-2, LG-3. -/
theorem test_legal_refuses_L2 : legal { exPs8 with nBits := 0 } = false ∧ legal { exPs8 with nBits := 65 } = false := by
  decide
/-- LG-4, LG-5, LG-6. -/
theorem test_legal_refuses_L3 :
    legal { withF0 ⟨true, 60, 8, true, true, 16, true⟩ with nBits := 64 } = false ∧
    legal (withF0 ⟨true, 2, 0, true, true, 16, true⟩) = false ∧
    legal (withF0 ⟨true, 2, 33, true, true, 16, true⟩) = false := by decide
/-- LG-7. -/
theorem test_legal_refuses_L4 : legal (withF1 ⟨true, 5, 2, true, false, 0, true⟩) = false := by decide
/-- LG-8, LG-9. -/
theorem test_legal_refuses_L5 : legal (withF0 ⟨true, 2, 4, true, true, 3, true⟩) = false ∧
    legal (withF0 ⟨true, 2, 4, true, true, 33, true⟩) = false := by decide
/-- LG-10, LG-11. -/
theorem test_legal_refuses_L6 : legal { exPs8 with preMask := 0x07 } = false ∧
    legal { exPs8 with preMask := 0x103 } = false := by decide
/-- LG-12. -/
theorem test_legal_refuses_L7 : legal { exPs8 with ckScheme := 3 } = false := by decide
/-- LG-13. -/
theorem test_legal_refuses_L8 : legal { exPs8 with ckMask := 0x1FC } = false := by decide
/-- LG-14. -/
theorem test_legal_refuses_L9 : legal { exPs8 with ckScheme := 1, ckField := 5 } = false := by decide
/-- LG-17, and LG-15 on an enabled channel. -/
theorem test_cfg_err : (Channel.initial { exPs8 with en := false, family := 3 }).oCfgErr = false ∧
    (Channel.initial { exPs8 with family := 3 }).oCfgErr = true := by decide

/-! ### Decoding, from the words and codes the spec writes out -/

/-- op 0b00 in bits 33:32 above 32 data bits (R75). -/
theorem test_decode_nop : decode (.cmd 0b0000000000000000000000000000000000#34) = .ok (.nop 0) := by decide
/-- op 0b01, data 500 = 0b111110100 (R75, R186). -/
theorem test_decode_sample : decode (.cmd 0b0100000000000000000000000111110100#34) = .ok (.sample 500) := by decide
/-- op 0b10 (R75, R187). -/
theorem test_decode_rsv2 : decode (.cmd 0b1000000000000000000000000000000001#34) = .ok (.rsv2 1) := by decide
/-- op 0b11 (R75, R187). -/
theorem test_decode_rsv3 : decode (.cmd 0b1110000000000000000000000000000000#34) = .ok (.rsv3 0x80000000#32) := by decide
/-- Stage classify, no selector (R80). -/
theorem test_decode_winMatch : decode .classify = .ok .winMatch := by decide
/-- `cfg.family = 0b00` (R80). -/
theorem test_decode_psDecode : decode (.decodeSel 0b00#2) = .ok .psDecode := by decide
/-- `cfg.family = 0b01` (R80). -/
theorem test_decode_bmcDecode : decode (.decodeSel 0b01#2) = .ok .bmcDecode := by decide
/-- Stage frame, always (R80). -/
theorem test_decode_frameApply : decode .frame = .ok .frameApply := by decide
/-- `cfg.ck_scheme = 0b00` (R80). -/
theorem test_decode_chkNone : decode (.checkSel 0b00#2) = .ok .chkNone := by decide
/-- `cfg.ck_scheme = 0b01` (R80). -/
theorem test_decode_chkNibbleSub : decode (.checkSel 0b01#2) = .ok .chkNibbleSub := by decide
/-- `cfg.ck_scheme = 0b10` (R80). -/
theorem test_decode_chkXorParity : decode (.checkSel 0b10#2) = .ok .chkXorParity := by decide
/-- `cfg.dd_policy = 0` (R80). -/
theorem test_decode_dedupSuppress : decode (.dedupSel false) = .ok .dedupSuppress := by decide
/-- `cfg.dd_policy = 1` (R80). -/
theorem test_decode_dedupLock : decode (.dedupSel true) = .ok .dedupLock := by decide
/-- The reserved selector codes (R83). -/
theorem test_decode_rejects : decode (.decodeSel 0b10#2) = .error (.reservedFamily 2) ∧
    decode (.decodeSel 0b11#2) = .error (.reservedFamily 3) ∧
    decode (.checkSel 0b11#2) = .error (.reservedScheme 3) := by decide
/-- `{op, data}` (R75). -/
theorem test_encode_words : encode (.sample 0xFF0001F4#32) = .cmd 0x1FF0001F4#34 ∧
    encode (.rsv3 0x12345678#32) = .cmd 0x312345678#34 := by decide

theorem test_table_words : decodeTableWord 40 0x1000001F4 = some (.sample 500) ∧
    decodeTableWord 40 0x4000000000 = none ∧ decodeTableWord 8 1 = some .bmcDecode ∧
    decodeTableWord 8 2 = some .chkXorParity ∧ decodeTableWord 8 4 = none := by decide
/-- The next step runs the command placed. -/
theorem test_withFetchWord_command :
    see State.cmdErr (step (State.reset.withFetchWord 40 0x200000000)) = some true := by decide
/-- The next step performs the unit operation placed: the duration 0 is no pulse on the Pulse-Space channel, and a full
interval, the bit Zero, on the Biphase-Mark channel. -/
theorem test_withFetchWord_unit :
    see0 (fun c => (c.cfg.family, c.out.bit)) (step (State.reset.withFetchWord 8 0)) = some (0b00#2, 0b000#3) ∧
    see0 (fun c => (c.cfg.family, c.out.bit)) (step (State.reset.withFetchWord 8 1)) = some (0b01#2, 0b010#3) := by
  decide

/-! ### The instructions, one step each -/

/-- CM-1, SP-4. -/
theorem test_nop : see0 (fun c => (c.out, c.dec.ps))
    (exec (.nop 7) (blk { decCh exPs8 .pulseRcvd false true with
      out := { Outputs.reset with bit := 0b111, emit := true, frmValid := true, frmCkOk := true, outTs := 9 } })) =
    some ({ Outputs.reset with frmCkOk := true, outTs := 9 }, .pulseRcvd) := by decide
/-- CM-2. -/
theorem test_rsv2 : see (fun s => (s.cmdErr, s.oCmdErr, s.chans)) (exec (.rsv2 0) (blk (decCh exPs8 .pulseRcvd false true))) =
    some (true, true, [decCh exPs8 .pulseRcvd false true]) := by decide
/-- CM-3. -/
theorem test_rsv3 : see (fun s => (s.cmdErr, s.oCmdErr, s.chans))
    (exec (.rsv3 0x12345678) { blk (decCh exPs8 .pulseRcvd false true) with cmdErr := true, oCmdErr := true }) =
    some (true, true, [decCh exPs8 .pulseRcvd false true]) := by decide
/-- CM-5: bits 31:24 are ignored. -/
theorem test_sample_low_bits : see0 (fun c => c.dec) (exec (.sample 0xFF0001F4) (blk (Channel.initial exPs8))) =
    some ⟨.pulseRcvd, false, false⟩ := by decide
/-- SP-3. -/
theorem test_sample_message :
    see0 (fun c => (c.out, c.frm))
      (exec (.sample 2000) (blk { decCh exPs8 .pulseRcvd false true with frm := frm 7 0xE 0 1 })) =
    some ({ Outputs.reset with
      bit := 0b111, frmValid := true, frmFld := ⟨0xFFFE, 1, 0, 0, 0, 0, 0, 0⟩, frmTs := 42, frmCkOk := true
      emit := true, outFld := ⟨0xFFFE, 1, 0, 0, 0, 0, 0, 0⟩, outTs := 42 }, frm 0 0xE 1 0) := by decide
/-- CL-2, CL-5. -/
theorem test_winMatch : see0 (fun c => c.nets.m)
    (exec .winMatch (blk { Channel.initial exPs8 with nets := { Nets.idle with d := 400 } })) =
      some ⟨true, false, false, false⟩ ∧
    see0 (fun c => c.nets.m)
    (exec .winMatch (blk { Channel.initial exPs8 with nets := { Nets.idle with d := 601 } })) =
      some ⟨false, false, false, false⟩ := by decide
/-- CL-7, CL-9: a lower bound below 0 and an upper one above 2^32 do not wrap. -/
theorem test_winMatch_no_wrap : winMatch 0 ⟨100, 200⟩ = true ∧ winMatch 301 ⟨100, 200⟩ = false ∧
    winMatch 16777215 ⟨0xFFFFFFFF, 0xFFFFFFFF⟩ = true := by decide
/-- PS-8: 2300, the upper bound of the one-space window. -/
theorem test_psDecode : see0 (fun c => (c.nets.bit, c.dec))
    (exec .psDecode (blk { decCh exPs8 .pulseRcvd false true with
      nets := { Nets.idle with m := matchBits 2300 exPs8.win } })) =
    some (⟨true, true, true⟩, ⟨.idle, false, true⟩) := by decide
/-- PS-10: a pulse length after a pulse. -/
theorem test_psDecode_no_match : psDecode ⟨.pulseRcvd, false, true⟩ (matchBits 500 exPs8.win) =
    (⟨false, false, false⟩, ⟨.idle, false, false⟩) := by decide
/-- BM-6: a full interval drops a pending half. -/
theorem test_bmcDecode : see0 (fun c => (c.nets.bit, c.dec))
    (exec .bmcDecode (blk { decCh exBmc0 .idle true true with
      nets := { Nets.idle with d := 1000, m := matchBits 1000 exBmc0.win } })) =
    some (⟨false, true, true⟩, ⟨.idle, false, true⟩) := by decide
/-- BM-10: 349 is discarded, 350 is a half. -/
theorem test_bmcDecode_filter :
    bmcDecode exBmc4 ⟨.idle, true, true⟩ 349 (matchBits 349 exBmc4.win) = (BitBus.none, ⟨.idle, true, true⟩) ∧
    bmcDecode exBmc4 ⟨.idle, true, true⟩ 350 (matchBits 350 exBmc4.win) = (⟨true, true, true⟩, ⟨.idle, false, true⟩) := by
  decide
/-- FR-7, its last bit. -/
theorem test_frameApply_message : see0 (fun c => (c.frm, c.nets.msg))
    (exec .frameApply (blk (frmCh exPs8 (frm 7 0xE 0 1) ⟨true, true, true⟩))) =
    some (frm 0 0xE 1 0, some ⟨⟨0xFFFE, 1, 0, 0, 0, 0, 0, 0⟩, 42⟩) := by decide
/-- FR-10: a resync whose bit the preamble refuses. -/
theorem test_frameApply_resync : see0 (fun c => (c.frm, c.nets.resync, c.nets.abort))
    (exec .frameApply (blk (frmCh exPs8 (frm 5 0xE 0 1) ⟨false, true, false⟩))) =
    some (frm 0 0 0 0, true, true) := by decide
/-- FR-15, its last bit: no failed check beside the abort. -/
theorem test_frameApply_abort_at_last :
    frameApply exP4 (frm 3 0 0 0) ⟨false, true, true⟩ 42 = ⟨frm 0 0 0 0, none, false, true, false⟩ := by decide
/-- FR-14, least significant bit first: offset 4 is bit 2. -/
theorem test_frameApply_lsb_first :
    (frameApply (withF0 ⟨true, 2, 4, false, true, 16, true⟩) (frm 4 0x3 0 0) ⟨true, true, true⟩ 42).frm.fld.f0 = 0x7 := by
  decide
/-- FR-16: every telegram passes. -/
theorem test_chkNone : see0 (fun c => (c.frm, c.nets.ckPass))
    (exec .chkNone (blk (frmCh exP4 (frm 3 0 0 0) ⟨true, true, true⟩))) = some (frm 3 0 0 0, true) := by decide
/-- FR-18: the fourth masked bit, nibble 0xA from 0xF. -/
theorem test_chkNibbleSub : see0 (fun c => (c.frm.ckAcc, c.frm.ckNib, c.frm.ckCnt))
    (exec .chkNibbleSub (blk (frmCh exNib { frm 3 0xA0 0 0 with ckAcc := 0xF, ckNib := 0x5, ckCnt := 3 }
      ⟨false, true, true⟩))) = some (0x5#4, 0xA#4, 0#2) := by decide
/-- FR-19: the accumulator 0 against the checksum 1. -/
theorem test_chkNibbleSub_fails : nibblePass exNib { frm 11 0xA5 1 0 with ckAcc := 0 } = false := by decide
/-- FR-21, its last bit: offset 3 feeds par[1]. -/
theorem test_chkXorParity : see0 (fun c => (c.frm.par, c.nets.ckPass))
    (exec .chkXorParity (blk (frmCh exPar2 (frm 3 0 0 0b00) ⟨true, true, true⟩))) = some (0b10#2, true) := by decide
/-- FR-22, its last bit. -/
theorem test_chkXorParity_fails : see0 (fun c => (c.frm.par, c.nets.ckPass))
    (exec .chkXorParity (blk (frmCh exPar2 (frm 3 0 0 0b10) ⟨true, true, true⟩))) = some (0b00#2, false) := by decide
/-- SX-1, SX-4, SX-8, SX-9. -/
theorem test_signExtend : signExtend ⟨true, 0, 12, true, true, 16, true⟩ 0x801 = 0xF801 ∧
    signExtend ⟨true, 0, 12, true, true, 12, true⟩ 0x801 = 0x801 ∧
    signExtend ⟨true, 0, 1, true, true, 32, true⟩ 1 = 0xFFFFFFFF ∧
    signExtend ⟨true, 0, 32, true, true, 32, true⟩ 0x80000000 = 0x80000000 := by decide
/-- DD-4: exactly the interval. -/
theorem test_dedupSuppress : see0 (fun c => (c.nets.emit, c.nets.dup, c.dd, c.anom))
    (exec .dedupSuppress (blk (ddCh exPs8 (prev1 0x12 5000000 false) (msg1 0x12 6000000)))) =
    some (true, false, prev1 0x12 6000000 false, false) := by decide
/-- DD-7: a timestamp that goes back. -/
theorem test_dedupSuppress_back : see0 (fun c => (c.nets.emit, c.nets.dup, c.dd, c.anom))
    (exec .dedupSuppress (blk (ddCh exPs8 (prev1 0x12 2000000 false) (msg1 0x12 1999000)))) =
    some (false, true, prev1 0x12 1999000 false, true) := by decide
/-- DD-21. -/
theorem test_dedupLock : see0 (fun c => (c.nets.emit, c.nets.dup, c.dd, c.anom))
    (exec .dedupLock (blk (ddCh exPs8L (prev1 0x12 1000000 false) (msg1 0x12 1500000)))) =
    some (true, false, prev1 0x12 1500000 true, false) := by decide
/-- DD-24: the interval has run out, the lock clears. -/
theorem test_dedupLock_expires : see0 (fun c => (c.nets.emit, c.nets.dup, c.dd, c.anom))
    (exec .dedupLock (blk (ddCh exPs8L (prev1 0x12 1000000 true) (msg1 0x12 2000000)))) =
    some (false, true, prev1 0x12 2000000 false, false) := by decide

/-! ### Steps -/

/-- CM-4: reset wins over SAMPLE 500. -/
theorem test_step_reset : see id
    (step { blk { decCh exPs8 .pulseRcvd false true with anom := true } with
      cmdErr := true, oCmdErr := true, pending := [cyc true 0x1000001F4#34 3] }) =
    some { blk (Channel.initial exPs8) with tsNow := 3 } := by decide
/-- A step takes the cycle's timestamp and runs its command. -/
theorem test_step_sample : see (fun s => (s.tsNow, s.chans.head?.map (fun c => c.dec.ps)))
    (step { blk (Channel.initial exPs8) with pending := [cyc false 0x1000001F4#34 3] }) =
    some (3#64, some .pulseRcvd) := by decide

/-! ### Witnesses: a state and operands that meet the hypotheses of each statement, clause by clause -/

/-- The channel is channel 0 of its one-channel block, and a unit operation or a sample with this selection takes it. -/
def Takes (sel : Cfg → Prop) (c : Channel) : Prop := (blk c).chans[0]? = some c ∧ Selected sel c

theorem test_not_selected : ¬ Selected (fun cfg => cfg.family = 0b00#2) (Channel.initial exBmc4) :=
  fun h => absurd h.2.2 (by decide)

theorem test_witness_DecodeAndEncodeAgree : decode (.cmd 0x3FFFFFFFF#34) = .ok (.rsv3 0xFFFFFFFF#32) := by decide

/-- The first and the last word of each command. -/
theorem test_witness_CommandIsToldByMatchAndMask :
    (0x000000000#34 &&& 0x300000000#34 = 0x000000000#34 ∧ 0x0FFFFFFFF#34 &&& 0x300000000#34 = 0x000000000#34) ∧
    (0x100000000#34 &&& 0x300000000#34 = 0x100000000#34 ∧ 0x1FFFFFFFF#34 &&& 0x300000000#34 = 0x100000000#34) ∧
    (0x200000000#34 &&& 0x300000000#34 = 0x200000000#34 ∧ 0x2FFFFFFFF#34 &&& 0x300000000#34 = 0x200000000#34) ∧
    (0x300000000#34 &&& 0x300000000#34 = 0x300000000#34 ∧ 0x3FFFFFFFF#34 &&& 0x300000000#34 = 0x300000000#34) := by
  decide

theorem test_witness_ReservedSelectorsAreRejected : legal exPs8 = true ∧ OpWord.decodeSel 0b00#2 ∈ exPs8.stageCodes ∧
    (Channel.initial { exPs8 with family := 0b10#2 }).cfg.family = 0b10#2 ∧
    (Channel.initial { exPs8 with family := 0b11#2 }).cfg.family = 0b11#2 ∧
    (Channel.initial { exPs8 with ckScheme := 0b11#2 }).cfg.ckScheme = 0b11#2 := by decide

/-- A block with a presented cycle. -/
def presenting (s : State) (p : List HostCycle) : State := { s with pending := p }

theorem test_witness_StepRunsTheCommandPresented :
    (presenting (blk (Channel.initial exPs8)) [cyc false 0x1000001F4#34 7]).pending = cyc false 0x1000001F4#34 7 :: [] ∧
    (cyc false 0x1000001F4#34 7).rst = false ∧ (cyc false 0x1000001F4#34 7).cfg = none ∧
    decode (.cmd (cyc false 0x1000001F4#34 7).cmd) = .ok (.sample 500) ∧ (blk (Channel.initial exPs8)).pending = [] := by
  decide

theorem test_witness_ResetWinsOverTheCommand :
    (presenting (blk (decCh exPs8 .pulseRcvd false true)) [cyc true 0x1000001F4#34 7, cyc true 0 8]).pending =
      cyc true 0x1000001F4#34 7 :: [cyc true 0 8] ∧
    (cyc true 0x1000001F4#34 7).rst = true ∧ (cyc true 0x1000001F4#34 7).cfg = none ∧ (cyc true 0 8).rst = true ∧
    (cyc true 0 8).cfg = none := by decide

theorem test_witness_ResetLeavesTheSpecValues : Channel.initial Cfg.zero ∈ State.reset.chans := by decide

/-- The three clauses: a change, none, and a change in reset. -/
theorem test_witness_ConfigurationChangesOnlyUnderReset :
    [exBmc4].length = (blk (Channel.initial exPs8)).chans.length ∧
    [exBmc4] ≠ (blk (Channel.initial exPs8)).chans.map Channel.cfg ∧
    [exPs8] = (blk (Channel.initial exPs8)).chans.map Channel.cfg ∧
    (⟨true, 0, 0, some [exBmc4]⟩ : HostCycle).cfg = some [exBmc4] := by decide

/-- Both outcomes of a step exist. -/
theorem test_witness_NothingStopsTheBlock :
    (∃ t, step (blk (Channel.initial exPs8)) = .next t) ∧
    step (presenting (blk (Channel.initial exPs8)) [⟨false, 0, 0, some [exBmc4]⟩]) = .refused .cfgChangedWhileRunning :=
  ⟨⟨_, rfl⟩, rfl⟩

/-- Two words that agree below SAMPLE_W = 24 and differ above. -/
theorem test_witness_DurationIsTheLowBits : (∀ j < 24, (0x010001F4#32).getLsbD j = (0xFF0001F4#32).getLsbD j) ∧
    (0x010001F4#32) ≠ (0xFF0001F4#32) := by decide

/-- A disabled channel, an enabled illegal one, and another channel beside it. -/
theorem test_witness_InertChannelsKeepTheirState :
    (Channel.initial { exPs8 with en := false }).cfg.en = false ∧
    (legal (Channel.initial { exPs8 with family := 2 }).cfg = false ∧
      (Channel.initial { exPs8 with family := 2 }).cfg.en = true) ∧
    (∃ t, exec (.sample 500) { blk (Channel.initial { exPs8 with en := false }) with
      chans := [Channel.initial { exPs8 with en := false }, Channel.initial exPs8].set 0 (Channel.initial exBmc4) } =
      .next t) ∧ (1 : Nat) ≠ 0 ∧ (Instr.sample 500).isCommand = true :=
  ⟨rfl, ⟨by decide, rfl⟩, ⟨_, rfl⟩, by decide, rfl⟩

/-- Two blocks that agree on channel 0 and not on channel 1. -/
theorem test_witness_ChannelsDoNotReadEachOther :
    ({ blk (Channel.initial exPs8) with chans := [Channel.initial exPs8, Channel.initial exBmc4] } : State).chans[0]? =
    ({ blk (Channel.initial exPs8) with chans := [Channel.initial exPs8, Channel.initial exN1] } : State).chans[0]? := rfl

/-- Both sticky flags set, and a step. -/
theorem test_witness_StickyFlagsStayUntilReset : ∃ s t : State, step s = .next t ∧ s.cycle.rst = false ∧
    s.cmdErr = true ∧ ∃ c c' : Channel, s.chans[0]? = some c ∧ t.chans[0]? = some c' ∧ c.anom = true :=
  ⟨{ blk { Channel.initial exPs8 with anom := true } with cmdErr := true, oCmdErr := true }, _, rfl, rfl, rfl, _, _, rfl,
    rfl, rfl⟩

/-- A sample without a message, one with a message that is not emitted, and a command that is no sample. -/
theorem test_witness_DataOutputsHoldWithoutTheirStrobe :
    (Instr.sample 500).isCommand = true ∧ (∀ data, Instr.nop 0 ≠ .sample data) ∧
    see0 (fun c => (c.out.frmValid, c.out.emit, c.out.bit.getLsbD 1)) (exec (.sample 500) (blk (Channel.initial exPs8))) =
      some (false, false, false) ∧
    see0 (fun c => (c.out.frmValid, c.out.emit))
      (exec (.sample 2000) (blk { decCh exPs8L .pulseRcvd false true with frm := frm 7 0xE 0 1 })) =
      some (true, false) := ⟨rfl, by simp, by decide, by decide⟩

/-- A sample with a resync, with an abort, with a failed check, with a message emitted and with a duplicate. -/
theorem test_witness_SampleStrobesExcludeEachOther :
    see0 (fun c => c.out.evtResync)
      (exec (.sample 2000) (blk { decCh exPs8 .pulseRcvd false false with frm := frm 5 0xE 0 1 })) = some true ∧
    see0 (fun c => c.out.evtAbort) (exec (.sample 1000) (blk (decCh exPs8 .pulseRcvd false true))) = some true ∧
    see0 (fun c => c.out.evtCkfail)
      (exec (.sample 1000) (blk { decCh exPs8 .pulseRcvd false true with frm := frm 7 0xE 0 1 })) = some true ∧
    see0 (fun c => (c.out.frmValid, c.out.emit))
      (exec (.sample 2000) (blk { decCh exPs8 .pulseRcvd false true with frm := frm 7 0xE 0 1 })) = some (true, true) ∧
    see0 (fun c => (c.out.frmValid, c.out.evtDup))
      (exec (.sample 2000) (blk { decCh exPs8L .pulseRcvd false true with frm := frm 7 0xE 0 1 })) = some (true, true) := by
  decide

theorem test_witness_StateIsKeptAcrossIdleCycles : (blk (decCh exPs8 .pulseRcvd false true)).pending = [] := rfl

/-- The two ends of a window, and one beyond each (CL-1 to CL-5). -/
theorem test_witness_WindowMatchIsInclusiveOnIntegers : Takes (fun _ => True) (Channel.initial exPs8) ∧
    (matchBits 399 exPs8.win).get 0 = false ∧ (matchBits 400 exPs8.win).get 0 = true ∧
    (matchBits 600 exPs8.win).get 0 = true ∧ (matchBits 601 exPs8.win).get 0 = false :=
  ⟨⟨rfl, rfl, by decide, trivial⟩, by decide⟩

/-- CL-10, CL-11. -/
theorem test_witness_FirstSelectsTheEarliestMatch : first ⟨true, true, false, false⟩ [0, 1] = some 0 ∧
    first ⟨false, true, false, false⟩ [0, 1] = some 1 ∧ first ⟨false, false, true, false⟩ [0, 1] = none := by decide

/-- A Pulse-Space channel with a decoder state and match bits. -/
def psCh (ps : PsState) (m : Four Bool) : Channel :=
  { decCh exPs8 ps false true with nets := { Nets.idle with m := m } }

/-- The five clauses, where a window beside the deciding one matches too. -/
theorem test_witness_PulseSpaceDecodeTransitions :
    (∀ ps m, Takes (fun cfg => cfg.family = 0b00#2) (psCh ps m)) ∧
    ((psCh .idle ⟨true, true, true, true⟩).dec.ps = .idle ∧ (psCh .idle ⟨true, true, true, true⟩).nets.m.get 0 = true) ∧
    (psCh .idle ⟨false, true, true, true⟩).nets.m.get 0 = false ∧
    ((psCh .pulseRcvd ⟨true, true, true, false⟩).dec.ps = .pulseRcvd ∧
      (psCh .pulseRcvd ⟨true, true, true, false⟩).nets.m.get 1 = true) ∧
    ((psCh .pulseRcvd ⟨true, false, true, false⟩).nets.m.get 1 = false ∧
      (psCh .pulseRcvd ⟨true, false, true, false⟩).nets.m.get 2 = true) ∧
    ((psCh .pulseRcvd ⟨true, false, false, true⟩).nets.m.get 1 = false ∧
      (psCh .pulseRcvd ⟨true, false, false, true⟩).nets.m.get 2 = false) :=
  ⟨fun _ _ => ⟨rfl, rfl, by show legal exPs8 = true; decide, rfl⟩, by decide⟩

/-- 601, 1201 and 2301, each one above a window (L1-2a). -/
theorem test_witness_PulseSpaceReturnsToItsStart :
    Takes (fun cfg => cfg.family = 0b00#2) (decCh exPs8 .pulseRcvd false true) ∧
    ∀ d ∈ [601, 1201, 2301], winMatch d (exPs8.win.get 0) = false ∧ winMatch d (exPs8.win.get 1) = false ∧
      winMatch d (exPs8.win.get 2) = false := ⟨⟨rfl, rfl, by decide, rfl⟩, by decide⟩

theorem test_witness_DecodersLeaveTheOtherFamilysElement :
    Takes (fun cfg => cfg.family = 0b00#2) (decCh exPs8 .idle true true) ∧
    Takes (fun cfg => cfg.family = 0b01#2) (decCh exBmc4 .pulseRcvd false true) :=
  ⟨⟨rfl, rfl, by decide, rfl⟩, rfl, rfl, by decide, rfl⟩

/-- A Biphase-Mark channel with the filter, a pending half or none, a duration and match bits. -/
def bmcCh (half : Bool) (d : Word) (m : Four Bool) : Channel :=
  { decCh exBmc4 .idle half true with nets := { Nets.idle with d := d, m := m } }

/-- The five clauses: 349 is the last duration discarded, 350 the first that is not. -/
theorem test_witness_BiphaseMarkDecodeTransitions :
    (∀ half d m, Takes (fun cfg => cfg.family = 0b01#2) (bmcCh half d m)) ∧
    (exBmc4.lpfEn = true ∧ filtered exBmc4 (bmcCh true 349 ⟨true, true, false, false⟩).nets.d.toNat = true) ∧
    (filtered exBmc4 (bmcCh false 350 ⟨true, true, false, false⟩).nets.d.toNat = false ∧
      (bmcCh false 350 ⟨true, true, false, false⟩).nets.m.get 0 = true ∧
      (bmcCh false 350 ⟨true, true, false, false⟩).dec.half = false) ∧
    ((bmcCh true 350 ⟨true, true, false, false⟩).nets.m.get 0 = true ∧
      (bmcCh true 350 ⟨true, true, false, false⟩).dec.half = true) ∧
    ((bmcCh true 800 ⟨false, true, true, true⟩).nets.m.get 0 = false ∧
      (bmcCh true 800 ⟨false, true, true, true⟩).nets.m.get 1 = true) ∧
    ((bmcCh true 700 ⟨false, false, true, true⟩).nets.m.get 0 = false ∧
      (bmcCh true 700 ⟨false, false, true, true⟩).nets.m.get 1 = false) :=
  ⟨fun _ _ _ => ⟨rfl, rfl, by show legal exBmc4 = true; decide, rfl⟩, by decide⟩

/-- BM-10 and BM-12: 349 below the threshold 350, and a window with `tol > center`. -/
theorem test_witness_LowPassFilterDiscardsTheSample :
    Takes (fun cfg => cfg.family = 0b01#2 ∧ cfg.lpfEn = true) (decCh exBmc4 .idle true true) ∧
    (349 : Int) < (exBmc4.win.get 0).center.toNat - (exBmc4.win.get 0).tol.toNat ∧
    (⟨100, 200⟩ : Window).center.toNat ≤ (⟨100, 200⟩ : Window).tol.toNat ∧
    Takes (fun cfg => cfg.family = 0b01#2 ∧ cfg.lpfEn = true)
      (Channel.initial { exBmc4 with win := ⟨⟨100, 200⟩, ⟨1000, 200⟩, ⟨0, 0⟩, ⟨0, 0⟩⟩ }) :=
  ⟨⟨rfl, rfl, by decide, rfl, rfl⟩, by decide, by decide, rfl, rfl, by decide, rfl, rfl⟩

/-- L1-2c, L1-2d, BM-9: without the filter, with it at or above its threshold, and below it. -/
theorem test_witness_BiphaseMarkReturnsToItsStart :
    Takes (fun cfg => cfg.family = 0b01#2) (decCh exBmc0 .idle true true) ∧
    (winMatch 100 (exBmc0.win.get 0) = false ∧ winMatch 100 (exBmc0.win.get 1) = false ∧ exBmc0.lpfEn = false) ∧
    (winMatch 651 (exBmc4.win.get 0) = false ∧ winMatch 651 (exBmc4.win.get 1) = false ∧
      windowLo (exBmc4.win.get 0) ≤ 651) ∧
    (winMatch 349 (exBmc4.win.get 0) = false ∧ winMatch 349 (exBmc4.win.get 1) = false ∧ exBmc4.lpfEn = true ∧
      (349 : Int) < windowLo (exBmc4.win.get 0)) := ⟨⟨rfl, rfl, by decide, rfl⟩, by decide⟩

/-- BM-16: continuity after a bit and discarded samples; BM-8: none after a sample that breaks the stream. -/
theorem test_witness_ContinuityRemembersTheLastBit : (bmcRun exBmc4 DecState.reset [1000, 100, 100]).cont = true ∧
    (bmcRun exBmc4 DecState.reset [1000, 5000]).cont = false := by decide

/-- FR-1. -/
theorem test_witness_InvalidBitLeavesTheFramer :
    Takes (fun _ => True) (frmCh exPs8 (frm 3 0x8 0 1) BitBus.none) ∧ BitBus.none.valid = false :=
  ⟨⟨rfl, rfl, by decide, trivial⟩, rfl⟩

/-- FR-12 and FR-13: a bit not in-stream at the last cursor, and an in-stream bit at cursor 0. -/
theorem test_witness_ResyncForgetsTheTelegram :
    ((⟨true, true, false⟩ : BitBus).valid = true ∧ (⟨true, true, false⟩ : BitBus).instream = false ∧
      (frm 7 0xE 0 1).cursor ≠ 0#6) ∧
    ((⟨true, true, true⟩ : BitBus).valid = true ∧ (frm 0 0xE 1 0).cursor = 0#6) := by decide

/-- FR-4, and FR-15 at the last offset. -/
theorem test_witness_PreambleMismatchAborts :
    Takes (fun _ => True) (frmCh exPs8 (frm 1 0 0 0) ⟨true, true, true⟩) ∧
    PreambleRefuses exPs8 (telegramEntry exPs8 (frm 1 0 0 0) ⟨true, true, true⟩) ⟨true, true, true⟩ ∧
    Takes (fun _ => True) (frmCh exP4 (frm 3 0 0 0) ⟨false, true, true⟩) ∧
    PreambleRefuses exP4 (telegramEntry exP4 (frm 3 0 0 0) ⟨false, true, true⟩) ⟨false, true, true⟩ :=
  ⟨⟨rfl, rfl, by decide, trivial⟩, by unfold PreambleRefuses; decide, ⟨rfl, rfl, by decide, trivial⟩,
    by unfold PreambleRefuses; decide⟩

/-- A bit before the last offset and a bit at it, which the preamble does not refuse: FR-6 and FR-7's last. -/
theorem test_witness_PlacedBitGoesToItsField :
    (Takes (fun _ => True) (frmCh exPs8 (frm 2 0 0 0) ⟨true, true, true⟩) ∧
      ¬ PreambleRefuses exPs8 (telegramEntry exPs8 (frm 2 0 0 0) ⟨true, true, true⟩) ⟨true, true, true⟩ ∧
      (telegramEntry exPs8 (frm 2 0 0 0) ⟨true, true, true⟩).cursor.toNat + 1 < exPs8.nBits.toNat) ∧
    (Takes (fun _ => True) (frmCh exPs8 (frm 7 0xE 0 1) ⟨true, true, true⟩) ∧
      ¬ PreambleRefuses exPs8 (telegramEntry exPs8 (frm 7 0xE 0 1) ⟨true, true, true⟩) ⟨true, true, true⟩ ∧
      (telegramEntry exPs8 (frm 7 0xE 0 1) ⟨true, true, true⟩).cursor.toNat + 1 = exPs8.nBits.toNat) :=
  ⟨⟨⟨rfl, rfl, by decide, trivial⟩, by unfold PreambleRefuses; decide, by decide⟩,
    ⟨rfl, rfl, by decide, trivial⟩, by unfold PreambleRefuses; decide, by decide⟩

/-- Each check scheme at the last offset of its telegram. -/
theorem test_witness_FrameApplyRunsTheSelectedCheck :
    (Takes (fun _ => True) (frmCh exPs8 (frm 7 0xE 0 1) ⟨true, true, true⟩) ∧ decode (.checkSel exPs8.ckScheme) = .ok .chkXorParity ∧
      ¬ PreambleRefuses exPs8 (telegramEntry exPs8 (frm 7 0xE 0 1) ⟨true, true, true⟩) ⟨true, true, true⟩ ∧
      (telegramEntry exPs8 (frm 7 0xE 0 1) ⟨true, true, true⟩).cursor.toNat + 1 = exPs8.nBits.toNat) ∧
    (Takes (fun _ => True) (frmCh exNib (frm 11 0xA5 0 0) ⟨true, true, true⟩) ∧ decode (.checkSel exNib.ckScheme) = .ok .chkNibbleSub ∧
      ¬ PreambleRefuses exNib (telegramEntry exNib (frm 11 0xA5 0 0) ⟨true, true, true⟩) ⟨true, true, true⟩ ∧
      (telegramEntry exNib (frm 11 0xA5 0 0) ⟨true, true, true⟩).cursor.toNat + 1 = exNib.nBits.toNat) ∧
    (Takes (fun _ => True) (frmCh exP4 (frm 3 0 0 0) ⟨true, true, true⟩) ∧ decode (.checkSel exP4.ckScheme) = .ok .chkNone ∧
      ¬ PreambleRefuses exP4 (telegramEntry exP4 (frm 3 0 0 0) ⟨true, true, true⟩) ⟨true, true, true⟩ ∧
      (telegramEntry exP4 (frm 3 0 0 0) ⟨true, true, true⟩).cursor.toNat + 1 = exP4.nBits.toNat) :=
  ⟨⟨⟨rfl, rfl, by decide, trivial⟩, by decide, by unfold PreambleRefuses; decide, by decide⟩,
    ⟨⟨rfl, rfl, by decide, trivial⟩, by decide, by unfold PreambleRefuses; decide, by decide⟩,
    ⟨rfl, rfl, by decide, trivial⟩, by decide, by unfold PreambleRefuses; decide, by decide⟩

/-- FR-7 and FR-8: the last bit of a telegram, with a passing and with a failing check. -/
theorem test_witness_LastBitCompletesTheTelegram :
    (∀ b, Takes (fun _ => True) (frmCh exPs8 (frm 7 0xE 0 1) ⟨b, true, true⟩) ∧
      ¬ PreambleRefuses exPs8 (telegramEntry exPs8 (frm 7 0xE 0 1) ⟨b, true, true⟩) ⟨b, true, true⟩ ∧
      (telegramEntry exPs8 (frm 7 0xE 0 1) ⟨b, true, true⟩).cursor.toNat + 1 = exPs8.nBits.toNat) ∧
    (frameApply exPs8 (frm 7 0xE 0 1) ⟨true, true, true⟩ 42).ckfail = false ∧
    (frameApply exPs8 (frm 7 0xE 0 1) ⟨false, true, true⟩ 42).ckfail = true :=
  ⟨fun b => ⟨⟨rfl, rfl, by show legal exPs8 = true; decide, trivial⟩, by unfold PreambleRefuses; revert b; decide,
    by revert b; decide⟩, by decide⟩

/-- FR-9: a bit at offset 0 of a new telegram. -/
theorem test_witness_BitBeforeTheLastGivesNoMessage :
    Takes (fun _ => True) (frmCh exPs8 (frm 5 0xE 0 1) ⟨true, true, false⟩) ∧
    (telegramEntry exPs8 (frm 5 0xE 0 1) ⟨true, true, false⟩).cursor.toNat + 1 ≠ exPs8.nBits.toNat :=
  ⟨⟨rfl, rfl, by decide, trivial⟩, by decide⟩

/-- FR-7: the whole telegram, and its last bit; FR-16: a telegram with no check. -/
theorem test_witness_WholeTelegramCarriesItsBits :
    (legal exPs8 = true ∧ (frm 0 9 9 1).cursor = 0#6 ∧
      [true, false, true, true, true, false, false, true].length = exPs8.nBits.toNat ∧
      (∀ c < [true, false, true, true, true, false, false, true].length, exPs8.preMask.getLsbD c = true →
        [true, false, true, true, true, false, false, true][c]? = some (exPs8.preVal.getLsbD c)) ∧
      ([true, false, true, true, true, false, false, true].mapIdx fun j b =>
        (⟨b, true, if j = 0 then false else true⟩ : BitBus)).getLast? = some ⟨true, true, true⟩) ∧
    (legal exP4 = true ∧ [false, false, false, true].length = exP4.nBits.toNat ∧
      (∀ c < 4, exP4.preMask.getLsbD c = true → [false, false, false, true][c]? = some (exP4.preVal.getLsbD c)) ∧
      exP4.ckScheme = 0b00#2) := by decide

/-- SX-1 at the sign bit, SX-9 at the full width, SX-10. -/
theorem test_witness_SignExtensionCopiesTheSignBit :
    ((1 : Nat) ≤ 12 ∧ (12 : Nat) ≤ 32 ∧ (0x801#32).toNat < 2 ^ 12 ∧ (12 : Nat) ≤ 16 ∧ (16 : Nat) ≤ 32) ∧
    ((0x80000000#32).toNat < 2 ^ (⟨true, 0, 32, true, true, 32, true⟩ : FieldCfg).wid.toNat) ∧
    FieldCfg.zero.en = false := by decide

/-- FR-18: masked offsets with the count at 3 and below, an unmasked offset, and no bit. -/
theorem test_witness_NibbleChecksumUnit :
    Takes (fun cfg => cfg.ckScheme = 0b01#2) (frmCh exNib { frm 3 0xA0 0 0 with ckCnt := 3 } ⟨false, true, true⟩) ∧
    exNib.ckMask.getLsbD 3 = true ∧ exNib.ckMask.getLsbD 7 = true ∧ exNib.ckMask.getLsbD 8 = false ∧
    ({ frm 3 0xA0 0 0 with ckCnt := 3 } : FrmState).ckCnt.toNat = 3 ∧ (frm 7 0xA5 0 0).ckCnt.toNat ≠ 3 ∧
    BitBus.none.valid = false := ⟨⟨rfl, rfl, by decide, rfl⟩, by decide⟩

/-- The bits of FR-18. -/
def fr18 : List Bool := [true, false, true, false, false, true, false, true, false, false, false, false]

/-- FR-18 and FR-20: EX-NIB's whole telegram with its 8 masked offsets, and 6 masked offsets, two bits left over. -/
theorem test_witness_NibbleChecksumSubtractsTheNibbles :
    (legal exNib = true ∧ exNib.ckScheme = 0b01#2 ∧ (frm 0 9 9 1).cursor = 0#6 ∧ fr18.length = exNib.nBits.toNat ∧
      ∀ c < fr18.length, exNib.preMask.getLsbD c = true → fr18[c]? = some (exNib.preVal.getLsbD c)) ∧
    nibbleSum (maskedBits exNib fr18) = 0xA + 0x5 ∧
    (legal { exNib with ckMask := 0x03F } = true ∧ (maskedBits { exNib with ckMask := 0x03F } fr18).length = 6 ∧
      nibbleSum (maskedBits { exNib with ckMask := 0x03F } fr18) = 0xA ∧
      lastNibble (maskedBits { exNib with ckMask := 0x03F } fr18) = 0x9) := by decide

/-- FR-21: both parity bits at masked offsets, and an unmasked offset of EX-PS8. -/
theorem test_witness_XorParityUnit :
    Takes (fun cfg => cfg.ckScheme = 0b10#2) (frmCh exPar2 (frm 3 0 0 0) ⟨true, true, true⟩) ∧
    exPar2.ckMask.getLsbD 0 = true ∧ exPar2.ckMask.getLsbD 3 = true ∧
    Takes (fun cfg => cfg.ckScheme = 0b10#2) (frmCh exPs8 (frm 1 0 0 0) ⟨false, true, true⟩) ∧
    exPs8.ckMask.getLsbD 1 = false ∧ exPs8.ckMask.getLsbD 2 = true ∧ BitBus.none.valid = false :=
  ⟨⟨rfl, rfl, by decide, rfl⟩, by decide, by decide, ⟨rfl, rfl, by decide, rfl⟩, by decide⟩

theorem test_witness_NoCheckPassesEveryTelegram :
    Takes (fun cfg => cfg.ckScheme = 0b00#2) (frmCh exP4 (frm 3 0 0 0) ⟨true, true, true⟩) ∧
    (⟨true, true, true⟩ : BitBus).valid = true ∧ BitBus.none.valid = false := ⟨⟨rfl, rfl, by decide, rfl⟩, by decide⟩

/-- The same message, and not the same by its interval, with a message and without. -/
theorem test_witness_SuppressPolicyDecides :
    Takes (fun cfg => cfg.ddPolicy = false) (ddCh exPs8 (prev1 0x12 5000000 false) (msg1 0x12 5999999)) ∧
    (ddCh exPs8 (prev1 0x12 5000000 false) (msg1 0x12 5999999)).nets.msg = some (msg1 0x12 5999999) ∧
    sameAsPrevious exPs8 (prev1 0x12 5000000 false) (msg1 0x12 5999999) = true ∧
    sameAsPrevious exPs8 (prev1 0x12 5000000 false) (msg1 0x12 6000000) = false ∧
    (Channel.initial exPs8).nets.msg = none := ⟨⟨rfl, rfl, by decide, rfl⟩, by decide⟩

/-- DD-21, DD-22, DD-24: the same with the lock clear and set, and not the same. -/
theorem test_witness_LockPolicyDecides :
    Takes (fun cfg => cfg.ddPolicy = true) (ddCh exPs8L (prev1 0x12 1000000 false) (msg1 0x12 1500000)) ∧
    sameAsPrevious exPs8L (prev1 0x12 1000000 false) (msg1 0x12 1500000) = true ∧
    (prev1 0x12 1500000 true).lock = true ∧ (prev1 0x12 1000000 false).lock = false ∧
    sameAsPrevious exPs8L (prev1 0x12 1500000 true) (msg1 0x12 1900000) = true ∧
    sameAsPrevious exPs8L (prev1 0x12 1000000 true) (msg1 0x12 2000000) = false := ⟨⟨rfl, rfl, by decide, rfl⟩, by decide⟩

/-- DD-12 and DD-27: repeats 900,000 apart. -/
theorem test_witness_RepeatsWithinTheIntervalEmitOnce : DedupState.reset.prevValid = false ∧
    RepeatsOf exPs8 (msg1 0x12 1000000) [msg1 0x12 1900000, msg1 0x12 2800000, msg1 0x12 3700000] :=
  ⟨rfl, fun _ _ _ => rfl, by decide, fun _ _ _ => rfl, by decide, fun _ _ _ => rfl, by decide, trivial⟩

/-- L1-5. -/
theorem test_witness_LockTripleEmitsOnTheSecond : DedupState.reset.prevValid = false ∧
    RepeatsOf exPs8L (msg1 0x12 1000000) [msg1 0x12 1400000] ∧
    ¬ Identical exPs8L (msg1 0x13 1800000).out (msg1 0x12 1400000).out ∧
    ¬ Identical exPs8L (msg1 0x12 1000000).out (prev1 0x13 900000 true).prevFld :=
  ⟨rfl, ⟨fun _ _ _ => rfl, by decide, trivial⟩, fun h => absurd (h 0 rfl rfl) (by decide),
    fun h => absurd (h 0 rfl rfl) (by decide)⟩

/-- DD-7, DD-26, and DD-6: a timestamp that goes back by one, under each policy, and one that does not. -/
theorem test_witness_BackwardsTimestampCountsAsNoTime :
    (Takes (fun cfg => cfg.ddPolicy = false) (ddCh exPs8 (prev1 0x12 2000000 false) (msg1 0x12 1999999)) ∧
      Takes (fun cfg => cfg.ddPolicy = true) (ddCh exPs8L (prev1 0x12 2000000 true) (msg1 0x12 1999999))) ∧
    (ddCh exPs8 (prev1 0x12 2000000 false) (msg1 0x12 1999999)).nets.msg = some (msg1 0x12 1999999) ∧
    (prev1 0x12 2000000 false).prevValid = true ∧
    (msg1 0x12 1999999).ts.toNat < (prev1 0x12 2000000 false).prevTs.toNat ∧
    Identical exPs8 (msg1 0x12 1999999).out (prev1 0x12 2000000 false).prevFld ∧ exPs8.ddInterval ≠ 0 ∧
    Identical exPs8L (msg1 0x12 1999999).out (prev1 0x12 2000000 true).prevFld ∧ exPs8L.ddInterval ≠ 0 ∧
    DedupState.reset.prevValid = false ∧ (prev1 0x12 2000000 false).prevTs.toNat ≤ (msg1 0x12 2000000).ts.toNat :=
  ⟨⟨⟨rfl, rfl, by decide, rfl⟩, rfl, rfl, by decide, rfl⟩, rfl, rfl, by decide, fun _ _ _ => rfl, by decide,
    fun _ _ _ => rfl, by decide, rfl, by decide⟩

/-- An active channel, and samples with a message emitted, with one that is not, without a message, without a bit. -/
theorem test_witness_SampleOutputsAreItsMessage :
    Takes (fun _ => True) { decCh exPs8 .pulseRcvd false true with frm := frm 7 0xE 0 1 } ∧
    see0 (fun c => (c.out.frmValid, c.out.emit))
      (exec (.sample 2000) (blk { decCh exPs8 .pulseRcvd false true with frm := frm 7 0xE 0 1 })) = some (true, true) ∧
    see0 (fun c => (c.out.frmValid, c.out.emit, c.out.evtDup))
      (exec (.sample 2000) (blk { decCh exPs8L .pulseRcvd false true with frm := frm 7 0xE 0 1 })) =
      some (true, false, true) ∧
    see0 (fun c => (c.out.frmValid, c.out.bit.getLsbD 1))
      (exec (.sample 2000) (blk { decCh exPs8 .pulseRcvd false true with frm := frm 6 0xE 0 1 })) = some (false, true) ∧
    see0 (fun c => c.out.bit.getLsbD 1) (exec (.sample 500) (blk (Channel.initial exPs8))) = some false :=
  ⟨⟨rfl, rfl, by decide, trivial⟩, by decide⟩

/-- A block in the middle of a telegram, with a message before it, a pending sample and a reset to come. -/
def running : State :=
  presenting
    (blk { decCh exPs8 .pulseRcvd false true with
      frm := frm 7 0xE 0 1
      dd := ⟨true, ⟨0xFFFE, 1, 0, 0, 0, 0, 0, 0⟩, 40, false⟩
      out := { Outputs.reset with
        frmFld := ⟨0xFFFE, 1, 0, 0, 0, 0, 0, 0⟩, frmTs := 40, frmCkOk := true
        outFld := ⟨0xFFFE, 1, 0, 0, 0, 0, 0, 0⟩, outTs := 40 } })
    [cyc false 0x1000007D0#34 41, ⟨true, 0x300000000#34, 0, some [exBmc4]⟩]

theorem running_inv : running.Inv where
  someChannel := by decide
  sampleWidth := by decide
  cmdErrShown := rfl
  channels := by
    intro c hc
    obtain rfl : c = _ := List.mem_singleton.1 hc
    exact {
      netsIdle := rfl
      anomShown := rfl
      busOk := .inl rfl
      strobes := by unfold strobesAgree; decide
      inert := fun h => absurd h (by decide)
      cursorBelow := fun _ => by decide
      psHalf := fun _ => rfl
      bmcIdle := fun h => absurd h (by decide)
      fieldsFit := by unfold fieldFits; decide
      parSingle := fun _ => by decide
      lockUnused := fun _ => rfl
      noPrevious := fun h => absurd h (by decide)
      framedShown := ⟨rfl, rfl, rfl⟩
      emittedShown := fun h => absurd h (by decide) }

theorem test_witness_EveryStepKeepsTheStateInv : running.Inv ∧ ∃ t, step running = .next t := ⟨running_inv, _, rfl⟩

/-- A block of two channels in the middle of things, and a reset cycle. -/
theorem test_witness_ResetBringsTheInvariantAbout :
    let s : State := { running with
      chans := [decCh exBmc4 .idle true true, Channel.initial exNib], pending := [cyc true 0x1000001F4#34 7] }
    s.chans ≠ [] ∧ s.sampleW ≤ Config.dataW ∧ s.cycle.rst = true := by decide

/-- That block with an enabled, illegally configured channel 1 beside it. -/
def runningBeside : State :=
  { running with chans := running.chans ++ [Channel.initial { exPs8 with family := 3 }] }

theorem runningBeside_inv : runningBeside.Inv where
  someChannel := by decide
  sampleWidth := by decide
  cmdErrShown := rfl
  channels := by
    intro c hc
    rcases List.mem_append.1 hc with h | h
    · exact running_inv.channels c h
    · obtain rfl := List.mem_singleton.1 h
      exact {
        netsIdle := rfl
        anomShown := rfl
        busOk := .inl rfl
        strobes := by unfold strobesAgree; decide
        inert := fun _ => ⟨rfl, rfl, rfl, rfl⟩
        cursorBelow := fun h => absurd h (by decide)
        psHalf := fun _ => rfl
        bmcIdle := fun _ => rfl
        fieldsFit := by unfold fieldFits; decide
        parSingle := fun _ => by decide
        lockUnused := fun _ => rfl
        noPrevious := fun _ => rfl
        framedShown := ⟨rfl, rfl, rfl⟩
        emittedShown := fun h => absurd h (by decide) }

/-- Gone wrong depends on the channels the claim is about: channel 1 is illegal, channel 0 is not. -/
theorem test_goneWrong_is_about_channels :
    runningBeside.goneWrong (fun k => k = 1) ∧ ¬ runningBeside.goneWrong (fun k => k = 0) := by
  refine ⟨.inr ⟨1, _, rfl, rfl, by decide⟩, ?_⟩
  rintro (h | ⟨_, _, rfl, hc, h⟩)
  · exact absurd h (by decide)
  · obtain rfl := Option.some.inj hc
    exact absurd h (by decide)

/-- A claim about channel 0 of that block. -/
theorem test_witness_DutifulHostNeverGoesWrong : runningBeside.Inv ∧ ¬ runningBeside.goneWrong (fun k => k = 0) ∧
    ¬ runningBeside.clockAnomaly (fun k => k = 0) ∧ runningBeside.seenUpTo (fun k => k = 0) 40 ∧
    HostProgram.wf 40 runningBeside.pending = true ∧
    (∀ c ∈ runningBeside.pending, ∀ l, c.cfg = some l → ∀ (k : Nat) (cfg : Cfg), k = 0 → l[k]? = some cfg →
      cfg.en = true → legal cfg = true) := by
  refine ⟨runningBeside_inv, test_goneWrong_is_about_channels.2, ?_, ?_, by decide, ?_⟩
  · rintro ⟨_, _, rfl, hc, h⟩
    obtain rfl := Option.some.inj hc
    exact absurd h (by decide)
  · rintro _ _ rfl hc
    obtain rfl := Option.some.inj hc
    decide
  · intro c hc l hl k cfg hk hcfg _
    simp only [runningBeside, running, presenting, List.mem_cons, List.not_mem_nil, or_false] at hc
    subst hk
    rcases hc with rfl | rfl
    · exact absurd hl (by simp [cyc])
    · obtain rfl := Option.some.inj hl
      obtain rfl := Option.some.inj hcfg
      decide

end Sys2Proof.Tests.Slice0
end

section
/-! PROOFS. Reset: what a reset cycle leaves, from every state (spec/10_state.md R53, spec/70_reset_and_hazards.md R220
to R222). -/

namespace Sys2Proof.Machine

/-- With every strobe 0 the strobes agree. -/
theorem strobesAgree_quiet (o : Outputs) : strobesAgree o.quiet := ⟨nofun, nofun, by simp, by simp⟩

/-- A channel at reset has the invariant, whatever configuration it is driven with. -/
theorem Channel.initial_inv (cfg : Cfg) : (Channel.initial cfg).Inv where
  netsIdle := rfl
  anomShown := rfl
  busOk := .inl rfl
  strobes := strobesAgree_quiet Outputs.reset
  inert _ := ⟨rfl, rfl, rfl, rfl⟩
  cursorBelow ha := (nBits_of_legal ((Channel.active_iff _).1 ha).2).1
  psHalf _ := rfl
  bmcIdle _ := rfl
  fieldsFit := FieldsFit.zero cfg
  parSingle _ := BitVec.getLsbD_zero
  lockUnused _ := rfl
  noPrevious _ := rfl
  framedShown := ⟨rfl, rfl, rfl⟩
  emittedShown := nofun

/-- Reset brings the invariant about in a block with a channel and a SAMPLE_W that fits. -/
theorem State.doReset_inv {s : State} (hc : s.chans ≠ []) (hw : s.sampleW ≤ Config.dataW) : s.doReset.Inv where
  someChannel := by simpa using hc
  sampleWidth := hw
  cmdErrShown := rfl
  channels c hmem := by
    obtain ⟨c₀, -, rfl⟩ := List.mem_map.1 hmem
    exact Channel.initial_inv c₀.cfg

/-- A reset cycle is never refused: it resets the block that the ports drive (R222). -/
theorem step_of_rst {s : State} (hr : s.cycle.rst = true) : step s = .next s.beginCycle.doReset := by
  simp [step, State.cfgChanged, hr]

/-- A block has a channel in a cycle if it had one before. -/
theorem beginCycle_chans_ne_nil {s : State} (hc : s.chans ≠ []) : s.beginCycle.chans ≠ [] := by
  rw [← List.length_pos_iff, beginCycle_length]
  exact List.length_pos_iff.2 hc

/-- A presented cycle that holds the configuration stable drives `ts_now` and leaves the list, nothing else. -/
theorem beginCycle_of_pending {s : State} {c : HostCycle} {rest : List HostCycle} (hp : s.pending = c :: rest)
    (hcfg : c.cfg = none) : s.beginCycle = { s with tsNow := c.ts, pending := rest } := by
  simp [State.beginCycle, State.withCfg, State.accept, State.cycle, hp, hcfg]

/-- A presented reset cycle that holds the configuration stable. -/
theorem step_reset_of_pending {s : State} {c : HostCycle} {rest : List HostCycle} (hp : s.pending = c :: rest)
    (hr : c.rst = true) (hcfg : c.cfg = none) :
    step s = .next { s.doReset with tsNow := c.ts, pending := rest } := by
  rw [step_of_rst (by simpa [State.cycle, hp] using hr), beginCycle_of_pending hp hcfg]
  rfl

/-- A second reset changes nothing. -/
theorem State.doReset_doReset (s : State) : s.doReset.doReset = s.doReset := by
  simp [State.doReset, State.onEach, Function.comp_def, Channel.doReset, Channel.initial]

/-- Settles O6: both reset cycles are `doReset` with the ports driven, and `doReset` is idempotent. -/
theorem resetWinsOverTheCommand : Obligations.ResetWinsOverTheCommand := by
  intro s c rest hp hr hcfg
  refine ⟨_, step_reset_of_pending hp hr hcfg, rfl, fun c₂ rest₂ hp₂ hr₂ hcfg₂ => ?_⟩
  rw [step_reset_of_pending hp₂ hr₂ hcfg₂]
  exact congrArg (fun t : State => Host.Outcome.next { t with tsNow := c₂.ts, pending := rest₂ })
    (State.doReset_doReset s)

/-- Settles O7: the one channel of `State.reset` is `Channel.initial`, whose elements are R53's values. -/
theorem resetLeavesTheSpecValues : Obligations.ResetLeavesTheSpecValues := by
  refine ⟨rfl, rfl, fun c hc => ?_⟩
  obtain rfl := List.mem_singleton.1 hc
  simp [Channel.initial, DecState.reset, FrmState.reset, DedupState.reset, Outputs.reset]

/-- Settles O50: `State.reset` is what reset makes of a block with one disabled channel. -/
theorem stateInvAtReset : Obligations.StateInvAtReset :=
  State.doReset_inv (s := State.reset) (by decide) (by decide)

/-- Settles O53: the reset cycle keeps SAMPLE_W and the number of channels, and `doReset` does the rest. -/
theorem resetBringsTheInvariantAbout : Obligations.ResetBringsTheInvariantAbout := by
  intro s hc hw hr
  exact ⟨_, step_of_rst hr, State.doReset_inv (beginCycle_chans_ne_nil hc) (by simpa using hw)⟩

end Sys2Proof.Machine
end

section
/-! PROOFS. The invariant of a block, kept by every unit, by every command and by every step. -/

namespace Sys2Proof.Machine

/-! ### The decoders -/

/-- The bus of a decoder shows one of the five patterns (spec/30_encoding.md R78). -/
theorem Channel.decoded_busPattern (c : Channel) (d : Word) : busPattern (c.decoded d).1.toBits := by
  rcases c.decoded_bus d with h | ⟨v, i, h⟩ <;> rw [h]
  · exact .inl BitBus.none_toBits
  · cases v <;> cases i <;> simp [busPattern, BitBus.toBits, BitBus.bit]

/-- A bus without a valid bit shows `0b000`. -/
theorem Channel.decoded_toBits_of_invalid (c : Channel) (d : Word) (h : (c.decoded d).1.valid = false) :
    (c.decoded d).1.toBits = 0b000#3 := by
  rcases c.decoded_bus d with hb | ⟨v, i, hb⟩
  · rw [hb, BitBus.none_toBits]
  · simp [hb, BitBus.bit] at h

/-- A sample on a Pulse-Space channel leaves `dec_half` (spec/41_pulse_space.md R116). -/
theorem Channel.decoded_half (c : Channel) (d : Word) (h : c.cfg.family = 0#2) :
    (c.decoded d).2.half = c.dec.half := by
  simp [Channel.decoded, h]

/-- A sample on a Biphase-Mark channel leaves `dec_ps` (spec/42_biphase_mark.md R129). -/
theorem Channel.decoded_ps (c : Channel) (d : Word) (h : c.cfg.family = 1#2) : (c.decoded d).2.ps = c.dec.ps := by
  simp [Channel.decoded, h]

/-! ### The framer -/

/-- What the invariant says of the framer of an active channel: the cursor below N, the field registers within their
fields, and SINGLE's second parity bit at 0 (R38, R39, R147). -/
structure FramerInv (cfg : Cfg) (f : FrmState) : Prop where
  cursorBelow : f.cursor.toNat < cfg.nBits.toNat
  fieldsFit : FieldsFit cfg f.fld
  parSingle : cfg.parMode = false → f.par.getLsbD 1 = false

/-- The framer's part of a channel's invariant. -/
theorem Channel.Inv.framer {c : Channel} (h : c.Inv) (ha : c.active = true) : FramerInv c.cfg c.frm :=
  ⟨h.cursorBelow ha, h.fieldsFit, h.parSingle⟩

theorem frameStart_framerInv {cfg : Cfg} (hl : legal cfg = true) : FramerInv cfg (frameStart cfg) where
  cursorBelow := (nBits_of_legal hl).1
  fieldsFit := FieldsFit.zero cfg
  parSingle _ := BitVec.getLsbD_zero

/-- The telegram that a bit finds, begun or in progress, has the framer's invariant. -/
theorem FramerInv.enter {cfg : Cfg} {f : FrmState} (h : FramerInv cfg f) (hl : legal cfg = true) (bit : BitBus) :
    FramerInv cfg (frameEnter cfg f bit) := by
  rcases frameEnter_cases cfg f bit with ⟨-, e⟩ | ⟨-, -, -, e⟩ <;> rw [e]
  · exact frameStart_framerInv hl
  · exact h

/-- Placing a bit keeps the framer's invariant, and so does any cursor below N put in afterwards. -/
theorem FramerInv.place {cfg : Cfg} {f : FrmState} (h : FramerInv cfg f) (hl : legal cfg = true) (b : Bool)
    {cur : BitVec 6} (hcur : cur.toNat < cfg.nBits.toNat) :
    FramerInv cfg { framePlace cfg f b with cursor := cur } where
  cursorBelow := hcur
  fieldsFit := by
    simpa using h.fieldsFit.fieldWrite (fun i he => (range_of_legal hl i he).2.1) f.cursor.toNat b
  parSingle hp := by
    rw [← h.parSingle hp]
    exact ckUpdate_par_single cfg _ b hp

/-- A cursor below N that is not at the last offset advances to a cursor below N, without wrapping at 64. -/
theorem cursor_succ_lt {cfg : Cfg} {f : FrmState} (hl : legal cfg = true) (hlt : f.cursor.toNat < cfg.nBits.toNat)
    (hlast : atLast cfg f = false) : (f.cursor + 1).toNat < cfg.nBits.toNat := by
  have hn := (nBits_of_legal hl).2
  have hne : f.cursor.toNat + 1 ≠ cfg.nBits.toNat := by simpa [atLast] using hlast
  rw [BitVec.toNat_add]
  exact lt_of_le_of_lt (Nat.mod_le _ _) (by simp; omega)

/-- FRAME_APPLY keeps the framer's invariant. -/
theorem FramerInv.apply {cfg : Cfg} {f : FrmState} (h : FramerInv cfg f) (hl : legal cfg = true) (bit : BitBus)
    (ts : Timestamp) : FramerInv cfg (frameApply cfg f bit ts).frm := by
  cases hv : bit.valid
  · rwa [frameApply_invalid _ _ _ _ hv]
  · rw [frameApply_valid _ _ _ _ hv]
    have he := h.enter hl bit
    have hzero : (0#6).toNat < cfg.nBits.toNat := (nBits_of_legal hl).1
    rcases frameFrom_cases cfg (frameEnter cfg f bit) bit.value ts (resyncs f bit) with
      ⟨-, e⟩ | ⟨-, -, -, e⟩ | ⟨-, -, -, e⟩ | ⟨-, hlast, e⟩ <;> rw [e]
    · exact ⟨hzero, he.fieldsFit, he.parSingle⟩
    · exact he.place hl _ hzero
    · exact he.place hl _ hzero
    · exact he.place hl _ (cursor_succ_lt hl he.cursorBelow hlast)

/-- A message of the framer is stamped with `ts_now`, and comes with no abort and no failed check. -/
theorem Channel.framed_some {c : Channel} {d : Word} {ts : Timestamp} {msg : Message}
    (hm : (c.framed d ts).msg = some msg) :
    msg.ts = ts ∧ (c.framed d ts).abort = false ∧ (c.framed d ts).ckfail = false := by
  rcases frameApply_exclusive c.cfg c.frm (c.decoded d).1 ts with ⟨hn, -⟩ | ⟨⟨m, hs, hts⟩, habort, hck⟩
  · exact absurd (hn.symm.trans hm) nofun
  · obtain rfl : m = msg := Option.some.inj (hs.symm.trans hm)
    exact ⟨hts, habort, hck⟩

/-- Without a message an abort comes with no failed check. -/
theorem Channel.framed_none {c : Channel} {d : Word} {ts : Timestamp} (hm : (c.framed d ts).msg = none)
    (habort : (c.framed d ts).abort = true) : (c.framed d ts).ckfail = false := by
  rcases frameApply_exclusive c.cfg c.frm (c.decoded d).1 ts with ⟨-, h⟩ | ⟨⟨m, hs, -⟩, -, -⟩
  · exact h habort
  · exact absurd (hs.symm.trans hm) nofun

/-! ### The sample -/

/-- What a sample leaves of the units in an active channel, with or without a message: the framer's result, idle nets,
and `o_anom` showing `anom`. -/
theorem Channel.sample_units {c : Channel} (d : Word) (ts : Timestamp) (ha : c.active = true) :
    (c.sample d ts).frm = (c.framed d ts).frm ∧ (c.sample d ts).nets = Nets.idle ∧
      (c.sample d ts).out.anom = (c.sample d ts).anom := by
  cases hm : (c.framed d ts).msg with
  | none => rw [c.sample_none d ts ha hm]; exact ⟨rfl, rfl, rfl⟩
  | some msg => rw [c.sample_some d ts msg ha hm]; exact ⟨rfl, rfl, rfl⟩

/-- The strobes of a sample in an active channel exclude each other, from every state (spec/60_exceptions.md R203). -/
theorem Channel.sample_strobesAgree {c : Channel} (d : Word) (ts : Timestamp) (ha : c.active = true) :
    strobesAgree (c.sample d ts).out := by
  cases hm : (c.framed d ts).msg with
  | none =>
    rw [c.sample_none d ts ha hm]
    exact ⟨fun h => ⟨Channel.framed_none hm h, rfl⟩, fun _ => rfl, by simp, by simp⟩
  | some msg =>
    obtain ⟨-, habort, hck⟩ := Channel.framed_some hm
    rw [c.sample_some d ts msg ha hm]
    simp [strobesAgree, habort, hck]

/-- What the invariant says of the suppressor and of the outputs that show its messages (R46, R176 to R179). -/
structure SuppressorInv (c : Channel) : Prop where
  lockUnused : c.cfg.ddPolicy = false → c.dd.lock = false
  noPrevious : c.dd.prevValid = false → c.dd = DedupState.reset
  framedShown : c.out.frmFld = c.dd.prevFld ∧ c.out.frmTs = c.dd.prevTs ∧ c.out.frmCkOk = c.dd.prevValid
  emittedShown : c.out.emit = true → c.out.outFld = c.dd.prevFld ∧ c.out.outTs = c.dd.prevTs

/-- A sample in an active channel keeps the suppressor's part of the invariant: without a message nothing it speaks of
changes, and a message is remembered and shown. -/
theorem Channel.Inv.sample_suppressor {c : Channel} (h : c.Inv) (d : Word) (ts : Timestamp) (ha : c.active = true) :
    SuppressorInv (c.sample d ts) := by
  cases hm : (c.framed d ts).msg with
  | none =>
    rw [c.sample_none d ts ha hm]
    exact ⟨h.lockUnused, h.noPrevious, h.framedShown, nofun⟩
  | some msg =>
    obtain ⟨hvalid, hfld, hts⟩ := policyOf_remembers c.cfg c.dd msg
    rw [c.sample_some d ts msg ha hm]
    exact {
      lockUnused := fun hp => (policyOf_lock c.cfg c.dd msg hp).trans (h.lockUnused hp)
      noPrevious := fun hn => absurd (hvalid.symm.trans hn) nofun
      framedShown := ⟨hfld.symm, hts.symm, hvalid.symm⟩
      emittedShown := fun he => ⟨(if_pos he).trans hfld.symm, (if_pos he).trans hts.symm⟩ }

/-- A cycle that does nothing in a channel keeps its invariant. -/
theorem Channel.Inv.quiet {c : Channel} (h : c.Inv) : c.quiet.Inv where
  netsIdle := h.netsIdle
  anomShown := h.anomShown
  busOk := .inl rfl
  strobes := strobesAgree_quiet c.out
  inert := h.inert
  cursorBelow := h.cursorBelow
  psHalf := h.psHalf
  bmcIdle := h.bmcIdle
  fieldsFit := h.fieldsFit
  parSingle := h.parSingle
  lockUnused := h.lockUnused
  noPrevious := h.noPrevious
  framedShown := h.framedShown
  emittedShown := nofun

/-- A sample in an active channel keeps its invariant. -/
theorem Channel.Inv.sample_active {c : Channel} (h : c.Inv) (d : Word) (ts : Timestamp) (ha : c.active = true) :
    (c.sample d ts).Inv := by
  obtain ⟨hfrm, hnets, hanom⟩ := Channel.sample_units d ts ha
  obtain ⟨hdec, hbit⟩ := c.sample_decoded d ts ha
  have hframer : FramerInv c.cfg (c.sample d ts).frm :=
    hfrm ▸ (h.framer ha).apply ((c.active_iff).1 ha).2 (c.decoded d).1 ts
  have hsupp := h.sample_suppressor d ts ha
  exact {
    netsIdle := hnets
    anomShown := hanom
    busOk := hbit ▸ c.decoded_busPattern d
    strobes := Channel.sample_strobesAgree d ts ha
    inert := by simp [ha]
    cursorBelow := by simpa using fun _ => hframer.cursorBelow
    psHalf := by
      intro hfam
      rw [Channel.sample_cfg] at hfam
      rw [hdec, c.decoded_half d hfam, h.psHalf hfam]
    bmcIdle := by
      intro hfam
      rw [Channel.sample_cfg] at hfam
      rw [hdec, c.decoded_ps d hfam, h.bmcIdle hfam]
    fieldsFit := by
      rw [Channel.sample_cfg]
      exact hframer.fieldsFit
    parSingle := by
      rw [Channel.sample_cfg]
      exact hframer.parSingle
    lockUnused := hsupp.lockUnused
    noPrevious := hsupp.noPrevious
    framedShown := hsupp.framedShown
    emittedShown := hsupp.emittedShown }

/-- A sample keeps the invariant of every channel. -/
theorem Channel.Inv.sample {c : Channel} (h : c.Inv) (d : Word) (ts : Timestamp) : (c.sample d ts).Inv := by
  cases ha : c.active
  · rw [c.sample_inactive d ts ha]
    exact h.quiet
  · exact h.sample_active d ts ha

/-! ### Commands and steps -/

/-- A command keeps the invariant of every channel. -/
theorem Channel.Inv.command {c : Channel} (h : c.Inv) {i : Instr} (hi : i.isCommand = true) (w : Nat)
    (ts : Timestamp) : (effectOf i w ts c).Inv := by
  rcases effectOf_command i w ts hi with e | ⟨data, -, e⟩ <;> rw [e]
  · exact h.quiet
  · exact h.sample _ ts

/-- An operation that keeps every channel's invariant keeps the block's. -/
theorem State.Inv.onEach {s : State} (h : s.Inv) {f : Channel → Channel} (hf : ∀ c : Channel, c.Inv → (f c).Inv) :
    (s.onEach f).Inv where
  someChannel := by simpa using h.someChannel
  sampleWidth := h.sampleWidth
  cmdErrShown := h.cmdErrShown
  channels c hmem := by
    obtain ⟨c₀, hmem₀, rfl⟩ := List.mem_map.1 hmem
    exact hf c₀ (h.channels c₀ hmem₀)

theorem State.Inv.raiseCmdErr {s : State} (h : s.Inv) : s.raiseCmdErr.Inv :=
  { h with cmdErrShown := rfl }

/-- A command keeps the block's invariant. -/
theorem State.Inv.command {s t : State} (h : s.Inv) {i : Instr} (hi : i.isCommand = true) (ht : exec i s = .next t) :
    t.Inv := by
  have hfx := h.onEach fun c hc => hc.command hi s.sampleW s.tsNow
  rw [exec_eq] at ht
  obtain rfl := Host.Outcome.next.inj ht
  split
  · exact hfx.raiseCmdErr
  · exact hfx

/-- The ports driven with the configuration held stable keep the block's invariant. -/
theorem State.Inv.beginCycle {s : State} (h : s.Inv) (hcfg : s.cfgChanged = false) (hr : s.cycle.rst = false) :
    s.beginCycle.Inv where
  someChannel := beginCycle_chans_ne_nil h.someChannel
  sampleWidth := by simpa using h.sampleWidth
  cmdErrShown := by simpa using h.cmdErrShown
  channels := by
    rw [beginCycle_chans s hcfg hr]
    exact h.channels

/-- Settles O51: a step is refused, resets the block, or runs a command on the channels it had. -/
theorem everyStepKeepsTheStateInv : Obligations.EveryStepKeepsTheStateInv := by
  intro s t h ht
  rcases step_cases s with ⟨-, e⟩ | ⟨-, -, e⟩ | ⟨hcfg, hr, e⟩ <;> rw [e] at ht
  · cases ht
  · obtain rfl := Host.Outcome.next.inj ht
    exact State.doReset_inv (beginCycle_chans_ne_nil h.someChannel) (by simpa using h.sampleWidth)
  · exact (h.beginCycle hcfg hr).command (decodeCommand_isCommand _) ht

end Sys2Proof.Machine
end

section
/-! PROOFS. The outputs of a command: what it sets, what holds, and what a sample shows of its units (spec/10_state.md
R43 to R52, spec/45_commands.md R185 to R187). -/

namespace Sys2Proof.Machine

/-! ### Sticky flags -/

/-- A sample never clears `anom`. -/
theorem Channel.sample_anom_of_anom {c : Channel} (d : Word) (ts : Timestamp) (h : c.anom = true) :
    (c.sample d ts).anom = true := by
  rcases c.sample_cases d ts with ⟨-, e⟩ | ⟨ha, hm⟩ | ⟨ha, msg, hm⟩
  · rw [e]
    exact h
  · rw [c.sample_none d ts ha hm]
    exact h
  · rw [c.sample_some d ts msg ha hm]
    simp [h]

/-- No command clears `anom`. -/
theorem effectOf_anom_of_anom {c : Channel} {i : Instr} (hi : i.isCommand = true) (w : Nat) (ts : Timestamp)
    (h : c.anom = true) : (effectOf i w ts c).anom = true := by
  rcases effectOf_command i w ts hi with e | ⟨data, -, e⟩ <;> rw [e]
  · exact h
  · exact Channel.sample_anom_of_anom _ ts h

/-- No instruction clears `cmd_err`. -/
theorem exec_cmdErr_of_cmdErr {i : Instr} {s t : State} (ht : exec i s = .next t) (h : s.cmdErr = true) :
    t.cmdErr = true := by
  rw [exec_eq] at ht
  obtain rfl := Host.Outcome.next.inj ht
  split
  · rfl
  · exact h

/-- Settles O16: a step without `rst` runs a command, and no command clears a flag. -/
theorem stickyFlagsStayUntilReset : Obligations.StickyFlagsStayUntilReset := by
  intro s t ht hr
  rcases step_cases s with ⟨-, e⟩ | ⟨-, hr', -⟩ | ⟨hcfg, -, e⟩
  · cases e.symm.trans ht
  · cases hr.symm.trans hr'
  · have hexec := e.symm.trans ht
    refine ⟨fun h => exec_cmdErr_of_cmdErr hexec (by simpa using h), fun k c c' hc hc' hanom => ?_⟩
    obtain ⟨t', ht', hchans⟩ := exec_channel (decodeCommand s.cycle.cmd) s.beginCycle
    obtain rfl := Host.Outcome.next.inj (ht'.symm.trans hexec)
    rw [hchans, beginCycle_chans s hcfg hr, hc] at hc'
    obtain rfl := Option.some.inj hc'
    exact effectOf_anom_of_anom (decodeCommand_isCommand _) _ _ hanom

/-! ### Data outputs -/

/-- The outputs `o'` after a command hold the data outputs `o` of a message whose strobe is 0, and show no bit without
its valid bit (R51). -/
structure DataOutputsHeld (o o' : Outputs) : Prop where
  framed : o'.frmValid = false → o'.frmFld = o.frmFld ∧ o'.frmTs = o.frmTs ∧ o'.frmCkOk = o.frmCkOk
  emitted : o'.emit = false → o'.outFld = o.outFld ∧ o'.outTs = o.outTs
  noBit : o'.bit.getLsbD 1 = false → o'.bit = 0b000#3

theorem dataOutputsHeld_quiet (o : Outputs) : DataOutputsHeld o o.quiet :=
  ⟨fun _ => ⟨rfl, rfl, rfl⟩, fun _ => ⟨rfl, rfl⟩, fun _ => rfl⟩

/-- A sample holds the data outputs whose strobe it leaves at 0. -/
theorem Channel.sample_dataOutputsHeld (c : Channel) (d : Word) (ts : Timestamp) :
    DataOutputsHeld c.out (c.sample d ts).out := by
  have hbit : (c.decoded d).1.toBits.getLsbD 1 = false → (c.decoded d).1.toBits = 0b000#3 := fun h =>
    c.decoded_toBits_of_invalid d ((BitBus.toBits_getLsbD _).1.symm.trans h)
  rcases c.sample_cases d ts with ⟨-, e⟩ | ⟨ha, hm⟩ | ⟨ha, msg, hm⟩
  · rw [e]
    exact dataOutputsHeld_quiet c.out
  · rw [c.sample_none d ts ha hm]
    exact ⟨fun _ => ⟨rfl, rfl, rfl⟩, fun _ => ⟨rfl, rfl⟩, hbit⟩
  · rw [c.sample_some d ts msg ha hm]
    exact ⟨nofun, fun (he : (policyOf c.cfg c.cfg c.dd msg).emit = false) => by simp [he], hbit⟩

/-- Every command holds the data outputs whose strobe it leaves at 0. -/
theorem effectOf_dataOutputsHeld {i : Instr} (hi : i.isCommand = true) (w : Nat) (ts : Timestamp) (c : Channel) :
    DataOutputsHeld c.out (effectOf i w ts c).out := by
  rcases effectOf_command i w ts hi with e | ⟨data, -, e⟩ <;> rw [e]
  · exact dataOutputsHeld_quiet c.out
  · exact c.sample_dataOutputsHeld _ ts

/-- After a command that is no SAMPLE `o_bit` is `0b000`. -/
theorem effectOf_bit_of_not_sample {i : Instr} (hi : i.isCommand = true) (hns : ∀ data, i ≠ .sample data) (w : Nat)
    (ts : Timestamp) (c : Channel) : (effectOf i w ts c).out.bit = 0b000#3 := by
  rcases effectOf_command i w ts hi with e | ⟨data, hs, -⟩
  · rw [e]
    rfl
  · exact absurd hs (hns data)

/-- Settles O17: in every channel a command is a sample or a quiet cycle, and both hold the data outputs. -/
theorem dataOutputsHoldWithoutTheirStrobe : Obligations.DataOutputsHoldWithoutTheirStrobe := by
  intro i s hi
  obtain ⟨t, ht, hchans⟩ := exec_channel i s
  refine ⟨t, ht, fun k c hc => ⟨effectOf i s.sampleW s.tsNow c, by rw [hchans, hc]; rfl, ?_⟩⟩
  obtain ⟨hframed, hemitted, hnoBit⟩ := effectOf_dataOutputsHeld hi s.sampleW s.tsNow c
  exact ⟨hframed, hemitted, fun hns => effectOf_bit_of_not_sample hi hns _ _ c, hnoBit⟩

/-! ### What a sample shows -/

/-- A sample without a valid bit leaves the framer (spec/43_framer.md R136). -/
theorem Channel.framed_frm_of_invalid (c : Channel) (d : Word) (ts : Timestamp)
    (h : (c.decoded d).1.valid = false) : (c.framed d ts).frm = c.frm := by
  simp [Channel.framed, frameApply_invalid _ _ _ _ h]

/-- The suppressor's decision is that of the policy the configuration selects. -/
theorem policyOf_apply (cfg : Cfg) (dd : DedupState) (msg : Message) :
    policyOf cfg cfg dd msg = if cfg.ddPolicy then dedupLock cfg dd msg else dedupSuppress cfg dd msg := by
  unfold policyOf
  split <;> rfl

/-- Settles O49: a sample without a message, and one whose message is stamped with `ts_now` and goes through the
suppressor. -/
theorem sampleOutputsAreItsMessage : Obligations.SampleOutputsAreItsMessage := by
  refine SampleOperation.of_channel fun s d c ha _ => ?_
  intro decoded framed
  obtain ⟨hvalid, hinstream⟩ := (c.decoded d).1.toBits_getLsbD
  have hvalue := (c.decoded d).1.toBits_getLsbD_value
  have hfrm : (c.decoded d).1.toBits.getLsbD 1 = false → (c.framed d s.tsNow).frm = c.frm := fun h =>
    c.framed_frm_of_invalid d s.tsNow (hvalid.symm.trans h)
  cases hm : (c.framed d s.tsNow).msg with
  | none =>
    rw [c.sample_none d s.tsNow ha hm]
    exact ⟨rfl, rfl, ⟨hvalue, hvalid, hinstream⟩, ⟨rfl, rfl, rfl⟩, (congrArg Option.isSome hm).symm,
      fun _ => ⟨rfl, rfl, rfl, rfl⟩, fun _ hmsg => absurd (hm.symm.trans hmsg) nofun, nofun, nofun, rfl, hfrm,
      fun _ => ⟨rfl, rfl⟩⟩
  | some msg =>
    obtain ⟨hts, -, -⟩ := Channel.framed_some hm
    obtain ⟨hprev, hfld, hprevTs⟩ := policyOf_remembers c.cfg c.dd msg
    rw [c.sample_some d s.tsNow msg ha hm]
    refine ⟨rfl, rfl, ⟨hvalue, hvalid, hinstream⟩, ⟨rfl, rfl, rfl⟩, (congrArg Option.isSome hm).symm,
      fun hmsg => absurd (hm.symm.trans hmsg) nofun, fun m hmsg => ?_,
      fun _ => ⟨rfl, hts, hprev, hfld, hprevTs.trans hts⟩, fun he => ⟨rfl, if_pos he, (if_pos he).trans hts⟩, rfl, hfrm,
      nofun⟩
    obtain rfl : msg = m := Option.some.inj (hm.symm.trans hmsg)
    rw [← policyOf_apply]
    exact ⟨rfl, rfl, ⟨rfl, rfl⟩, rfl, rfl, fun he => ⟨if_pos he, if_pos he⟩, fun he => by simp [he]⟩

/-! ### A SAMPLE as a chain of unit operations -/

/-- An instruction that is no reserved command has its effect in every channel, and no other. -/
theorem exec_of_not_reserved {i : Instr} (hi : i.isReserved = false) (s : State) :
    exec i s = .next (s.onEach (effectOf i s.sampleW s.tsNow)) := by
  simp [exec_eq, hi]

@[simp] theorem Channel.decodeStage_active (c : Channel) : c.decodeStage.active = c.active :=
  Channel.active_congr (by simp)

/-- In an active channel the two decoder instructions, of which one acts, do what a sample's decoder stage does. -/
theorem effectOf_decoders {c : Channel} (ha : c.active = true) (w : Nat) (ts : Timestamp) :
    effectOf .bmcDecode w ts (effectOf .psDecode w ts c) = c.decodeStage := by
  rcases family_of_legal ((c.active_iff).1 ha).2 with h | h <;>
    simp [effectOf, Channel.decodeStage, selPs, selBmc, ha, h]

/-- In an active channel the two suppressor instructions, of which one acts, do what a sample's suppressor stage
does. -/
theorem effectOf_suppressors {c : Channel} (ha : c.active = true) (w : Nat) (ts : Timestamp) :
    effectOf .dedupLock w ts (effectOf .dedupSuppress w ts c) = c.suppressStage := by
  cases h : c.cfg.ddPolicy <;> simp [effectOf, Channel.suppressStage, selSuppress, selLock, ha, h]

/-- Driving the duration and then running the unit instructions one after the other, in one channel. -/
def Channel.unitChain (d : Word) (w : Nat) (ts : Timestamp) (c : Channel) : Channel :=
  effectOf .dedupLock w ts (effectOf .dedupSuppress w ts (effectOf .frameApply w ts (effectOf .bmcDecode w ts
    (effectOf .psDecode w ts (effectOf .winMatch w ts (if c.active && true then c.drive d else c))))))

/-- In an active channel a sample latches what the chain of its unit instructions leaves on the nets. -/
theorem Channel.sample_eq_latch_unitChain {c : Channel} (d : Word) (w : Nat) (ts : Timestamp) (ha : c.active = true) :
    c.sample d ts = (c.unitChain d w ts).latch := by
  have hclassify : effectOf .winMatch w ts (if c.active && true then c.drive d else c) = (c.drive d).classify := by
    simp [effectOf, ha]
  have hframe (b : Channel) (hb : b.active = true) : effectOf .frameApply w ts b = b.frameStage ts := by
    simp [effectOf, hb]
  rw [Channel.unitChain, hclassify, effectOf_decoders (by simpa using ha), hframe _ (by simpa using ha),
    effectOf_suppressors (by simpa using ha), Channel.sample, if_pos ha]

/-- In a channel that is not active no unit instruction acts. -/
theorem Channel.unitChain_inactive {c : Channel} (d : Word) (w : Nat) (ts : Timestamp) (ha : c.active = false) :
    c.unitChain d w ts = c := by
  simp [Channel.unitChain, effectOf, ha]

/-- No unit instruction changes a channel's configuration. -/
@[simp] theorem Channel.unitChain_cfg (c : Channel) (d : Word) (w : Nat) (ts : Timestamp) :
    (c.unitChain d w ts).cfg = c.cfg := by
  simp only [Channel.unitChain, effectOf_cfg]
  split <;> rfl

/-- The unit instructions, run one after the other on the driven nets, do `unitChain` in every channel. -/
theorem exec_unitChain (d : Word) (s : State) : ∃ s1 s2 s3 s4 s5 : State,
    exec .winMatch (s.onSelected (fun _ => true) (Channel.drive d)) = .next s1 ∧ exec .psDecode s1 = .next s2 ∧
    exec .bmcDecode s2 = .next s3 ∧ exec .frameApply s3 = .next s4 ∧ exec .dedupSuppress s4 = .next s5 ∧
    exec .dedupLock s5 = .next (s.onEach (Channel.unitChain d s.sampleW s.tsNow)) := by
  refine ⟨_, _, _, _, _, exec_of_not_reserved rfl _, exec_of_not_reserved rfl _, exec_of_not_reserved rfl _,
    exec_of_not_reserved rfl _, exec_of_not_reserved rfl _, (exec_of_not_reserved rfl _).trans ?_⟩
  simp only [State.onSelected, State.onEach_onEach, State.onEach_sampleW, State.onEach_tsNow]
  rfl

/-- Settles O12: the unit instructions compose to `unitChain` in every channel, which an active channel latches and
an inactive one leaves alone. -/
theorem sampleIsTheUnitOperationsInOrder : Obligations.SampleIsTheUnitOperationsInOrder := by
  intro data s
  obtain ⟨s1, s2, s3, s4, s5, h1, h2, h3, h4, h5, h6⟩ := exec_unitChain (duration s.sampleW data) s
  refine ⟨s1, s2, s3, s4, s5, _, h1, h2, h3, h4, h5, h6, ?_⟩
  rw [State.onEach_onEach, exec_of_not_reserved rfl]
  refine congrArg (fun f => Host.Outcome.next (s.onEach f)) (funext fun c => ?_)
  have hcfg := c.unitChain_cfg (duration s.sampleW data) s.sampleW s.tsNow
  change c.sample (duration s.sampleW data) s.tsNow = _
  split
  next h =>
    rw [hcfg, ← Channel.active_iff] at h
    rw [Channel.sample_eq_latch_unitChain _ s.sampleW _ h, Channel.latch_eq]
    rfl
  next h =>
    rw [hcfg, ← Channel.active_iff, Bool.not_eq_true] at h
    rw [c.sample_inactive _ _ h, c.unitChain_inactive _ _ _ h]
    rfl

end Sys2Proof.Machine
end

section
/-! PROOFS. The channels of a block: an instruction works in each of them alone (spec/20_memory.md R68,
spec/60_exceptions.md R209). -/

namespace Sys2Proof.Machine

/-- Settles O15: what an instruction leaves in channel `k` is a function of SAMPLE_W, `ts_now` and channel `k` alone,
and the two blocks agree on all three. -/
theorem channelsDoNotReadEachOther : Obligations.ChannelsDoNotReadEachOther := by
  intro i s u k hw hts hk
  obtain ⟨s', hs, hschans⟩ := exec_channel i s
  obtain ⟨u', hu, huchans⟩ := exec_channel i u
  refine ⟨s', u', hs, hu, ?_⟩
  calc s'.chans[k]?
    _ = (s.chans[k]?).map (effectOf i s.sampleW s.tsNow) := hschans k
    _ = (u.chans[k]?).map (effectOf i u.sampleW u.tsNow) := by rw [hk, hw, hts]
    _ = u'.chans[k]? := (huchans k).symm

end Sys2Proof.Machine
end

section
/-! PROOFS. Decoding and encoding of commands and selectors (spec/30_encoding.md R75, R80). -/

namespace Sys2Proof

/-! ### Commands -/

/-- Everything a command word can be: its op says which command, its data are the other bits (R75). -/
theorem decodeCommand_cases (w : BitVec 34) :
    (cmdOp w = 0#2 ∧ decodeCommand w = .nop (cmdData w)) ∨
    (cmdOp w = 1#2 ∧ decodeCommand w = .sample (cmdData w)) ∨
    (cmdOp w = 2#2 ∧ decodeCommand w = .rsv2 (cmdData w)) ∨
    (cmdOp w = 3#2 ∧ decodeCommand w = .rsv3 (cmdData w)) := by
  have hop : ∀ op : BitVec 2, op = 0#2 ∨ op = 1#2 ∨ op = 2#2 ∨ op = 3#2 := by decide
  rcases hop (cmdOp w) with h | h | h | h <;> simp [decodeCommand, h]

/-- A command word is the code of its command. -/
theorem encode_decodeCommand (w : BitVec 34) : encode (decodeCommand w) = .cmd w := by
  have hword := commandWord_fields w
  rcases decodeCommand_cases w with ⟨hop, e⟩ | ⟨hop, e⟩ | ⟨hop, e⟩ | ⟨hop, e⟩ <;> rw [hop] at hword <;> rw [e] <;>
    exact congrArg OpWord.cmd hword

/-- R75's mask leaves the op of a command word. -/
theorem cmdOp_masked (w : BitVec 34) : cmdOp (w &&& 0x300000000#34) = cmdOp w :=
  calc cmdOp (w &&& 0x300000000#34)
    _ = cmdOp w &&& cmdOp 0x300000000#34 := BitVec.extractLsb'_and
    _ = cmdOp w := BitVec.and_allOnes

/-- The data of a command word are its bits 31:0 (R75). -/
theorem ofNat_toNat_eq_cmdData (w : BitVec 34) : BitVec.ofNat 32 w.toNat = cmdData w := by
  apply BitVec.eq_of_toNat_eq
  rw [BitVec.toNat_ofNat, cmdData_toNat]

/-! ### Selectors -/

/-- The family codes that stand for a unit operation (R80). -/
theorem decodeFamily_eq_ok {family : BitVec 2} {i : Instr} (h : decodeFamily family = .ok i) :
    (family = 0#2 ∧ i = .psDecode) ∨ (family = 1#2 ∧ i = .bmcDecode) := by
  unfold decodeFamily at h
  split at h
  next h0 => exact .inl ⟨h0, (Except.ok.inj h).symm⟩
  split at h
  next h1 => exact .inr ⟨h1, (Except.ok.inj h).symm⟩
  next => cases h

/-- The check-scheme codes that stand for a unit operation (R80). -/
theorem decodeScheme_eq_ok {scheme : BitVec 2} {i : Instr} (h : decodeScheme scheme = .ok i) :
    (scheme = 0#2 ∧ i = .chkNone) ∨ (scheme = 1#2 ∧ i = .chkNibbleSub) ∨ (scheme = 2#2 ∧ i = .chkXorParity) := by
  unfold decodeScheme at h
  split at h
  next h0 => exact .inl ⟨h0, (Except.ok.inj h).symm⟩
  split at h
  next h1 => exact .inr (.inl ⟨h1, (Except.ok.inj h).symm⟩)
  split at h
  next h2 => exact .inr (.inr ⟨h2, (Except.ok.inj h).symm⟩)
  next => cases h

/-! ### The two directions -/

theorem decode_encode (i : Instr) : decode (encode i) = .ok i := by
  cases i <;> simp [encode, decode, decodeCommand, decodeFamily, decodeScheme]

theorem encode_of_decode {w : OpWord} {i : Instr} (h : decode w = .ok i) : encode i = w := by
  cases w with
  | cmd w =>
    obtain rfl := Except.ok.inj h
    exact encode_decodeCommand w
  | classify | frame =>
    obtain rfl := Except.ok.inj h
    rfl
  | decodeSel family => rcases decodeFamily_eq_ok h with ⟨rfl, rfl⟩ | ⟨rfl, rfl⟩ <;> rfl
  | checkSel scheme => rcases decodeScheme_eq_ok h with ⟨rfl, rfl⟩ | ⟨rfl, rfl⟩ | ⟨rfl, rfl⟩ <;> rfl
  | dedupSel policy =>
    obtain rfl := Except.ok.inj h
    cases policy <;> rfl

/-- Settles O1: instruction by instruction in one direction, code by code in the other. -/
theorem decodeAndEncodeAgree : Obligations.DecodeAndEncodeAgree :=
  ⟨decode_encode, fun _ _ => encode_of_decode⟩

/-- Settles O2: a match value under R75's mask is an op, and the op tells the command. -/
theorem commandIsToldByMatchAndMask : Obligations.CommandIsToldByMatchAndMask := by
  intro w
  have hop {m : BitVec 34} (h : w &&& 0x300000000#34 = m) : cmdOp w = cmdOp m := (cmdOp_masked w).symm.trans (h ▸ rfl)
  simp only [ofNat_toNat_eq_cmdData, decode, decodeCommand]
  exact ⟨fun h => by rw [hop h]; rfl, fun h => by rw [hop h]; rfl, fun h => by rw [hop h]; rfl,
    fun h => by rw [hop h]; rfl⟩

/-- Settles O3: each word is written out, and the decoder computes. -/
theorem wordsOfTheSpecDecode : Obligations.WordsOfTheSpecDecode := by
  unfold Obligations.WordsOfTheSpecDecode
  decide

end Sys2Proof
end

section
/-! PROOFS. What a configuration's selectors, a cycle's command word and a SAMPLE's data mean to the block
(spec/30_encoding.md R75, R77, R80, R83). -/

namespace Sys2Proof.Machine

/-! ### Reserved selectors -/

/-- A legal configuration's check scheme is none, nibble or parity (L7). -/
theorem scheme_of_legal {cfg : Cfg} (h : legal cfg = true) : cfg.ckScheme ≠ 3#2 := by
  obtain ⟨-, -, -, -, -, -, hscheme, -, -⟩ := (legal_parts cfg).1 h
  simpa [legalScheme] using hscheme

/-- A legal configuration selects a unit operation at every stage. -/
theorem decode_stageCodes_of_legal {cfg : Cfg} (h : legal cfg = true) {w : OpWord} (hw : w ∈ cfg.stageCodes) :
    ∃ i, decode w = .ok i := by
  simp only [Cfg.stageCodes, List.mem_cons, List.not_mem_nil, or_false] at hw
  rcases hw with rfl | rfl | rfl | rfl | rfl
  · exact ⟨_, rfl⟩
  · rcases family_of_legal h with e | e <;> rw [e] <;> exact ⟨_, rfl⟩
  · exact ⟨_, rfl⟩
  · have hscheme : ∀ k : BitVec 2, k ≠ 3#2 → k = 0#2 ∨ k = 1#2 ∨ k = 2#2 := by decide
    rcases hscheme _ (scheme_of_legal h) with e | e | e <;> rw [e] <;> exact ⟨_, rfl⟩
  · exact ⟨_, rfl⟩

/-- An illegal configuration shows on `o_cfg_err` of an enabled channel (R49). -/
theorem Channel.oCfgErr_of_illegal {c : Channel} (h : legal c.cfg = false) : c.oCfgErr = c.cfg.en := by
  simp [Channel.oCfgErr, h]

/-- Settles O4: LEGAL's conditions L1 and L7 leave exactly the codes that decode. -/
theorem reservedSelectorsAreRejected : Obligations.ReservedSelectorsAreRejected := by
  refine ⟨fun cfg h w hw => decode_stageCodes_of_legal h hw, fun c hc => ?_, fun c hc => ?_⟩
  · have hillegal : legal c.cfg = false := Bool.eq_false_iff.2 fun h => by
      rcases family_of_legal h with e | e <;> rw [e] at hc <;> exact absurd hc (by decide)
    refine ⟨?_, hillegal, Channel.oCfgErr_of_illegal hillegal⟩
    rcases hc with e | e <;> rw [e] <;> rfl
  · have hillegal : legal c.cfg = false := Bool.eq_false_iff.2 fun h => scheme_of_legal h hc
    refine ⟨?_, hillegal, Channel.oCfgErr_of_illegal hillegal⟩
    rw [hc]
    rfl

/-! ### The cycle and its command -/

/-- A cycle without `rst` that holds the configuration stable runs its command (R229). -/
theorem step_of_stable {s : State} (hr : s.cycle.rst = false) (hcfg : s.cycle.cfg = none) :
    step s = exec (decodeCommand s.cycle.cmd) s.beginCycle := by
  simp [step, State.cfgChanged, State.withCfg, hr, hcfg]

/-- With nothing presented the cycle begins with the block as it is. -/
theorem beginCycle_of_nothing_pending {s : State} (hp : s.pending = []) : s.beginCycle = s := by
  cases s
  simp_all [State.beginCycle, State.withCfg, State.accept, State.cycle]

/-- Settles O5: a presented cycle runs its command word, and the cycle with nothing presented is NOP. -/
theorem stepRunsTheCommandPresented : Obligations.StepRunsTheCommandPresented := by
  refine ⟨fun s c rest i hp hr hcfg hi => ?_, fun s hp => ?_⟩
  · have hcycle : s.cycle = c := by simp [State.cycle, hp]
    rw [step_of_stable (hcycle ▸ hr) (hcycle ▸ hcfg), beginCycle_of_pending hp hcfg, hcycle]
    exact congrArg (exec · _) (Except.ok.inj hi)
  · have hcycle : s.cycle = { rst := false, cmd := 0, ts := s.tsNow, cfg := none } := by simp [State.cycle, hp]
    rw [step_of_stable (hcycle ▸ rfl) (hcycle ▸ rfl), beginCycle_of_nothing_pending hp, hcycle]
    exact congrArg (exec · s) (show decodeCommand 0#34 = .nop 0 by decide)

/-! ### The duration -/

/-- The duration's bits are the low SAMPLE_W bits of the data, zero above (R77). -/
theorem getLsbD_duration (sampleW : Nat) (data : Word) (j : Nat) :
    (duration sampleW data).getLsbD j = (decide (j < sampleW) && data.getLsbD j) := by
  have hdata : (decide (j < 32) && data.getLsbD j) = data.getLsbD j := by
    by_cases h : j < 32
    · simp [h]
    · simp [BitVec.getLsbD_of_ge data j (by omega)]
  rw [duration, BitVec.getLsbD_ofNat, Nat.testBit_mod_two_pow, BitVec.testBit_toNat, Bool.and_left_comm, hdata]

/-- Data that agree in the low SAMPLE_W bits give the same duration. -/
theorem duration_congr {sampleW : Nat} {a b : Word} (h : ∀ j < sampleW, a.getLsbD j = b.getLsbD j) :
    duration sampleW a = duration sampleW b := by
  apply BitVec.eq_of_getLsbD_eq
  intro j _
  rw [getLsbD_duration, getLsbD_duration]
  by_cases hj : j < sampleW
  · rw [h j hj]
  · simp [hj]

theorem toNat_duration_default (data : Word) : (duration 24 data).toNat = data.toNat % 16777216 := by
  rw [duration, BitVec.toNat_ofNat]
  omega

/-- Settles O13: a SAMPLE reads its data through the duration alone. -/
theorem durationIsTheLowBits : Obligations.DurationIsTheLowBits :=
  ⟨getLsbD_duration, toNat_duration_default, fun s _ _ h =>
    congrArg (fun d => Host.Outcome.next (s.onEach (Channel.sample d s.tsNow))) (duration_congr h)⟩

end Sys2Proof.Machine
end

section
/-! PROOFS. FRAME_APPLY and the check unit its configuration selects (spec/43_framer.md R135, R144, R150, R154). -/

namespace Sys2Proof.Machine

/-- The check stage of the scheme that the configuration selects: the accumulators take the bit, and the verdict is put
on its net. -/
theorem effectOf_check {c : Channel} {i : Instr} (ha : c.active = true) (hv : c.nets.bit.valid = true)
    (hi : decode (.checkSel c.cfg.ckScheme) = .ok i) (w : Nat) (ts : Timestamp) :
    effectOf i w ts c =
      { c with
        frm := ckUpdate c.cfg c.frm c.nets.bit.value
        nets := { c.nets with ckPass := ckFinal c.cfg (ckUpdate c.cfg c.frm c.nets.bit.value) } } := by
  rcases decodeScheme_eq_ok hi with ⟨h, rfl⟩ | ⟨h, rfl⟩ | ⟨h, rfl⟩
  · simp [effectOf, Channel.checkStage, ckUpdate, ckFinal, selChkNone, ha, hv, h]
  · simp [effectOf, Channel.checkStage, ckUpdate, ckFinal, selChkNibble, ha, hv, h]
  · simp [effectOf, Channel.checkStage, ckUpdate, ckFinal, selChkParity, ha, hv, h]

/-- A bit that the preamble validator takes is placed in the telegram that it finds, whatever the cursor becomes; at the
last offset the final check decides between a message and a failed check (R150, R154). -/
theorem frameApply_places {cfg : Cfg} {f : FrmState} {bit : BitBus} (ts : Timestamp) (hv : bit.valid = true)
    (hpre : ¬ PreambleRefuses cfg (telegramEntry cfg f bit) bit) :
    ∃ cursor, (frameApply cfg f bit ts).frm =
        { framePlace cfg (telegramEntry cfg f bit) bit.value with cursor := cursor } ∧
      ((telegramEntry cfg f bit).cursor.toNat + 1 = cfg.nBits.toNat →
        (frameApply cfg f bit ts).ckfail = !ckFinal cfg (framePlace cfg (telegramEntry cfg f bit) bit.value) ∧
        (frameApply cfg f bit ts).msg.isSome = ckFinal cfg (framePlace cfg (telegramEntry cfg f bit) bit.value)) := by
  rw [frameApply_valid _ _ _ _ hv, frameEnter_eq, ← atLast_iff]
  rw [← preambleMismatch_iff] at hpre
  rcases frameFrom_cases cfg (telegramEntry cfg f bit) bit.value ts (resyncs f bit) with
    ⟨hp, -⟩ | ⟨-, -, hpass, e⟩ | ⟨-, -, hpass, e⟩ | ⟨-, hlast, e⟩
  · exact absurd hp hpre
  · rw [e, hpass]
    exact ⟨_, rfl, fun _ => ⟨rfl, rfl⟩⟩
  · rw [e, hpass]
    exact ⟨_, rfl, fun _ => ⟨rfl, rfl⟩⟩
  · rw [e]
    exact ⟨_, rfl, fun h => absurd (hlast.symm.trans h) nofun⟩

/-- Settles O35: FRAME_APPLY and the check instruction both leave `framePlace` of the telegram the bit finds, and its
final check is the verdict on the net. -/
theorem frameApplyRunsTheSelectedCheck : Obligations.FrameApplyRunsTheSelectedCheck := by
  intro s k c i hc hsel hi hv e hpre placed
  have ha := ((selected_iff _ _).1 hsel).1
  obtain ⟨t, ht, htchans⟩ := exec_channel .frameApply s
  obtain ⟨u, hu, huchans⟩ := exec_channel i { s with chans := s.chans.set k placed }
  have hplaced : (s.chans.set k placed)[k]? = some placed :=
    List.getElem?_set_self (List.getElem?_eq_some_iff.1 hc).1
  have hcheck := effectOf_check (c := placed) ha hv hi s.sampleW s.tsNow
  have hframe : effectOf .frameApply s.sampleW s.tsNow c = c.frameStage s.tsNow := by simp [effectOf, ha]
  obtain ⟨cursor, hfrm, hlast⟩ := frameApply_places s.tsNow hv hpre
  refine ⟨t, u, c.frameStage s.tsNow, _, ht, by rw [htchans, hc, ← hframe]; rfl, hu,
    by rw [huchans, hplaced, Option.map_some, hcheck], ?_⟩
  rw [Channel.frameStage_frm, hfrm]
  exact ⟨rfl, rfl, rfl, rfl, rfl, hlast⟩

end Sys2Proof.Machine
end

section
/-! PROOFS. A host that keeps its duties: what its next cycle is, and that a cycle of such a host leaves the block right
on the channels a claim is about (spec/30_encoding.md R81, spec/60_exceptions.md R212, spec/70_reset_and_hazards.md R223,
R224). -/

namespace Sys2Proof.Machine

/-! ### The duties of a host -/

/-- The cycle drives no illegal enabled configuration on the channels a claim is about. -/
def DrivesLegal (about : Nat → Prop) (c : HostCycle) : Prop :=
  ∀ l, c.cfg = some l → ∀ (k : Nat) (cfg : Cfg), about k → l[k]? = some cfg → cfg.en = true → legal cfg = true

/-- The timestamp of the last SAMPLE, after the cycle. -/
def lastSampleTs (t : Timestamp) (c : HostCycle) : Timestamp := if c.readsTs then c.ts else t

/-- The duties of a host in one cycle, `t` the timestamp of the last SAMPLE before it. -/
structure DutifulCycle (about : Nat → Prop) (t : Timestamp) (c : HostCycle) : Prop where
  noReserved : c.noReserved = true
  cfgStable : c.rst = false → c.cfg = none
  tsForward : t.toNat ≤ (lastSampleTs t c).toNat
  drivesLegal : DrivesLegal about c

/-- The duties of a host in all the cycles to come. -/
def DutifulProgram (about : Nat → Prop) (t : Timestamp) (p : List HostCycle) : Prop :=
  HostProgram.wf t p = true ∧ ∀ c ∈ p, DrivesLegal about c

/-- The timestamps never decrease when the next one does not and those after it do not. -/
theorem tsMonotone_cons (t : Timestamp) (c : HostCycle) (p : List HostCycle) :
    HostProgram.tsMonotone t (c :: p) = true ↔
      t.toNat ≤ (lastSampleTs t c).toNat ∧ HostProgram.tsMonotone (lastSampleTs t c) p = true := by
  cases h : c.readsTs <;> simp [HostProgram.tsMonotone, lastSampleTs, h]

/-- The first cycle of a dutiful program, and the program after it. -/
theorem DutifulProgram.cons {about : Nat → Prop} {t : Timestamp} {c : HostCycle} {p : List HostCycle}
    (h : DutifulProgram about t (c :: p)) : DutifulCycle about t c ∧ DutifulProgram about (lastSampleTs t c) p := by
  obtain ⟨hwf, hlegal⟩ := h
  simp only [HostProgram.wf, List.all_cons, Bool.and_eq_true, tsMonotone_cons] at hwf
  obtain ⟨⟨⟨hres, hresRest⟩, hstable, hstableRest⟩, hts, htsRest⟩ := hwf
  obtain ⟨hlegalC, hlegalRest⟩ := List.forall_mem_cons.1 hlegal
  exact ⟨⟨hres, fun hr => by simpa [HostCycle.cfgStable, hr] using hstable, hts, hlegalC⟩,
    by simp [HostProgram.wf, hresRest, hstableRest, htsRest], hlegalRest⟩

/-- A host with nothing to send drives a NOP, which keeps the duties. -/
theorem dutifulCycle_nothing (about : Nat → Prop) (t ts : Timestamp) :
    DutifulCycle about t { rst := false, cmd := 0, ts := ts, cfg := none } := by
  have hop : cmdOp 0#34 = 0#2 := by decide
  exact ⟨by simp [HostCycle.noReserved, hop], fun _ => rfl, by simp [lastSampleTs, HostCycle.readsTs, hop], nofun⟩

/-- The next cycle keeps the duties of a dutiful program, and so does the list without it. -/
theorem DutifulProgram.next {about : Nat → Prop} {t : Timestamp} {s : State} (h : DutifulProgram about t s.pending) :
    DutifulCycle about t s.cycle ∧ DutifulProgram about (lastSampleTs t s.cycle) s.pending.tail := by
  unfold State.cycle
  cases hp : s.pending with
  | nil => exact ⟨dutifulCycle_nothing about t s.tsNow, rfl, nofun⟩
  | cons c rest => exact (hp ▸ h).cons

/-! ### A channel that is right -/

/-- The channel is not wrong and shows no anomaly (R212), and its suppressor remembers no message later than `t`, so that
no later one can go back. -/
structure Channel.Right (t : Timestamp) (c : Channel) : Prop where
  cfgOk : c.oCfgErr = false
  noAnom : c.anom = false
  noAnomShown : c.out.anom = false
  seen : c.dd.prevTs.toNat ≤ t.toNat

/-- With no illegal enabled configuration a channel at reset is right. -/
theorem Channel.doReset_right {c : Channel} (h : c.oCfgErr = false) (t : Timestamp) : c.doReset.Right t :=
  ⟨h, rfl, rfl, Nat.zero_le _⟩

theorem Channel.Right.quiet {c : Channel} {t t' : Timestamp} (h : c.Right t) (ht : t.toNat ≤ t'.toNat) :
    c.quiet.Right t' :=
  ⟨h.cfgOk, h.noAnom, h.noAnomShown, h.seen.trans ht⟩

/-- A message stamped no earlier than the last one does not go back (R173). -/
theorem goesBack_eq_false {dd : DedupState} {msg : Message} (h : dd.prevTs.toNat ≤ msg.ts.toNat) :
    goesBack dd msg = false := by
  simp [goesBack, h]

/-- A sample no earlier than the last one leaves the channel right. -/
theorem Channel.Right.sample {c : Channel} {t ts : Timestamp} (h : c.Right t) (ht : t.toNat ≤ ts.toNat) (d : Word) :
    (c.sample d ts).Right ts := by
  have hseen := h.seen.trans ht
  rcases c.sample_cases d ts with ⟨-, e⟩ | ⟨ha, hm⟩ | ⟨ha, msg, hm⟩
  · rw [e]
    exact h.quiet ht
  · rw [c.sample_none d ts ha hm]
    exact ⟨h.cfgOk, h.noAnom, h.noAnom, hseen⟩
  · obtain ⟨rfl, -, -⟩ := Channel.framed_some hm
    obtain ⟨-, -, hprevTs⟩ := policyOf_remembers c.cfg c.dd msg
    have hanom : (c.anom || goesBack c.dd msg) = false := by simp [h.noAnom, goesBack_eq_false hseen]
    rw [c.sample_some d msg.ts msg ha hm]
    exact ⟨h.cfgOk, hanom, hanom, (congrArg BitVec.toNat hprevTs).le⟩

/-! ### A block that is right -/

/-- The block is right on the channels a claim is about. -/
structure State.Right (about : Nat → Prop) (t : Timestamp) (s : State) : Prop where
  noCmdErr : s.oCmdErr = false
  channels : ∀ (k : Nat) (c : Channel), about k → s.chans[k]? = some c → c.Right t

/-- A block that is right has not gone wrong and shows no anomaly (R212). -/
theorem State.Right.not_wrong {about : Nat → Prop} {t : Timestamp} {s : State} (h : s.Right about t) :
    ¬ s.goneWrong about ∧ ¬ s.clockAnomaly about := by
  constructor
  · rintro (hcmd | ⟨k, c, hk, hc, hcfg⟩)
    · exact absurd (h.noCmdErr.symm.trans hcmd) nofun
    · exact absurd ((h.channels k c hk hc).cfgOk.symm.trans hcfg) nofun
  · rintro ⟨k, c, hk, hc, hanom⟩
    exact absurd ((h.channels k c hk hc).noAnomShown.symm.trans hanom) nofun

/-- With the invariant, a block that has not gone wrong and shows no anomaly is right. -/
theorem State.right_of_not_wrong {about : Nat → Prop} {t : Timestamp} {s : State} (hinv : s.Inv)
    (hwrong : ¬ s.goneWrong about) (hanom : ¬ s.clockAnomaly about) (hseen : s.seenUpTo about t) : s.Right about t where
  noCmdErr := Bool.eq_false_iff.2 fun h => hwrong (.inl h)
  channels k c hk hc := by
    have hshown : c.out.anom = false := Bool.eq_false_iff.2 fun h => hanom ⟨k, c, hk, hc, h⟩
    exact ⟨Bool.eq_false_iff.2 fun h => hwrong (.inr ⟨k, c, hk, hc, h⟩),
      (hinv.channels c (List.mem_of_getElem? hc)).anomShown.symm.trans hshown, hshown, hseen k c hk hc⟩

/-- Configurations that are driven legally bring no `o_cfg_err` about. -/
theorem State.Right.beginCycle_cfgOk {about : Nat → Prop} {t : Timestamp} {s : State} (h : s.Right about t)
    (hlegal : DrivesLegal about s.cycle) {k : Nat} {c : Channel} (hk : about k)
    (hc : s.beginCycle.chans[k]? = some c) : c.oCfgErr = false := by
  cases hcfg : s.cycle.cfg with
  | none =>
    rw [State.beginCycle, hcfg] at hc
    exact (h.channels k c hk hc).cfgOk
  | some l =>
    have hc' : (driveCfg l s.chans)[k]? = some c := by rwa [State.beginCycle, hcfg] at hc
    rw [driveCfg_getElem?, Option.map_eq_some_iff] at hc'
    obtain ⟨c₀, hc₀, rfl⟩ := hc'
    cases hl : l[k]? with
    | none => exact (h.channels k c₀ hk hc₀).cfgOk
    | some cfg =>
      cases hen : cfg.en
      · simp [Channel.oCfgErr, hen]
      · simp [Channel.oCfgErr, hlegal l hcfg k cfg hk hl hen]

/-- A reset cycle leaves the block right. -/
theorem State.Right.reset {about : Nat → Prop} {t t' : Timestamp} {s : State} (h : s.Right about t)
    (hlegal : DrivesLegal about s.cycle) : s.beginCycle.doReset.Right about t' where
  noCmdErr := rfl
  channels k c hk hc := by
    rw [State.doReset_chans, List.getElem?_map, Option.map_eq_some_iff] at hc
    obtain ⟨c₀, hc₀, rfl⟩ := hc
    exact Channel.doReset_right (h.beginCycle_cfgOk hlegal hk hc₀) t'

/-- A cycle outside reset that presents no reserved command presents a NOP, or a SAMPLE, which reads `ts_now`. -/
theorem decodeCommand_of_noReserved {c : HostCycle} (hr : c.rst = false) (h : c.noReserved = true) :
    (∃ data, decodeCommand c.cmd = .nop data) ∨ (∃ data, decodeCommand c.cmd = .sample data ∧ c.readsTs = true) := by
  rcases decodeCommand_cases c.cmd with ⟨-, e⟩ | ⟨hop, e⟩ | ⟨hop, -⟩ | ⟨hop, -⟩
  · exact .inl ⟨_, e⟩
  · exact .inr ⟨_, e, by simp [HostCycle.readsTs, hr, hop]⟩
  · simp [HostCycle.noReserved, hr, hop] at h
  · simp [HostCycle.noReserved, hr, hop] at h

/-- An operation done in every channel leaves the block right when it leaves every channel right. -/
theorem State.Right.onEach {about : Nat → Prop} {t t' : Timestamp} {s : State} (h : s.Right about t)
    {f : Channel → Channel} (hf : ∀ c : Channel, c.Right t → (f c).Right t') : (s.onEach f).Right about t' where
  noCmdErr := h.noCmdErr
  channels k c hk hc := by
    rw [State.onEach_getElem?, Option.map_eq_some_iff] at hc
    obtain ⟨c₀, hc₀, rfl⟩ := hc
    exact hf c₀ (h.channels k c₀ hk hc₀)

/-- The command of a dutiful cycle leaves a right block right. -/
theorem State.Right.command {about : Nat → Prop} {t : Timestamp} {s : State} {c : HostCycle} (h : s.Right about t)
    (hc : DutifulCycle about t c) (hr : c.rst = false) (hts : s.tsNow = c.ts) :
    ∃ u : State, exec (decodeCommand c.cmd) s = .next u ∧ u.Right about (lastSampleTs t c) ∧ u.pending = s.pending := by
  have hforward := hc.tsForward
  rcases decodeCommand_of_noReserved hr hc.noReserved with ⟨data, e⟩ | ⟨data, e, hreads⟩ <;> rw [e]
  · exact ⟨_, rfl, h.onEach fun _ hright => hright.quiet hforward, rfl⟩
  · have hlast : lastSampleTs t c = s.tsNow := (if_pos hreads).trans hts.symm
    rw [hlast] at hforward ⊢
    exact ⟨_, rfl, h.onEach fun _ hright => hright.sample hforward _, rfl⟩

/-- A step of a dutiful host on a right block: it completes, and leaves the block right and the host dutiful. -/
theorem State.Right.step {about : Nat → Prop} {t : Timestamp} {s : State} (h : s.Right about t)
    (hp : DutifulProgram about t s.pending) :
    ∃ (u : State) (t' : Timestamp), step s = .next u ∧ u.Right about t' ∧ DutifulProgram about t' u.pending := by
  obtain ⟨hcycle, hrest⟩ := hp.next
  cases hr : s.cycle.rst
  · have hcfg := hcycle.cfgStable hr
    have hbegin : s.beginCycle = s.accept := by rw [State.beginCycle, hcfg]; rfl
    have haccept : s.accept.Right about t := ⟨h.noCmdErr, h.channels⟩
    obtain ⟨u, hu, hright, hpending⟩ := haccept.command hcycle hr rfl
    exact ⟨u, _, by rw [step_of_stable hr hcfg, hbegin, hu], hright, hpending ▸ hrest⟩
  · exact ⟨_, _, step_of_rst hr, h.reset hcycle.drivesLegal, by simpa using hrest⟩

/-- A run begins with a step. -/
theorem run_succ_of_step {s s' : State} (h : step s = .next s') (n : Nat) :
    Host.Core.run core (n + 1) s = Host.Core.run core n s' := by
  have hcore : core.step s = .next s' := h
  simp only [Host.Core.run, hcore]

/-- Every number of steps of a dutiful host on a right block completes, and leaves the block right. -/
theorem State.Right.run {about : Nat → Prop} (n : Nat) {t : Timestamp} {s : State} (h : s.Right about t)
    (hp : DutifulProgram about t s.pending) :
    ∃ (u : State) (t' : Timestamp), Host.Core.run core n s = .next u ∧ u.Right about t' := by
  induction n generalizing s t with
  | zero => exact ⟨s, t, rfl, h⟩
  | succ n ih =>
    obtain ⟨s', t', hstep, h', hp'⟩ := h.step hp
    obtain ⟨u, t'', hrun, hu⟩ := ih h' hp'
    exact ⟨u, t'', (run_succ_of_step hstep n).trans hrun, hu⟩

/-- Settles O52: the invariant and the premises make the block right, which every dutiful step keeps. -/
theorem dutifulHostNeverGoesWrong : Obligations.DutifulHostNeverGoesWrong := by
  intro s about ts hinv hwrong hanom hseen hwf hlegal n
  obtain ⟨u, t', hrun, hright⟩ := (State.right_of_not_wrong hinv hwrong hanom hseen).run n ⟨hwf, hlegal⟩
  exact ⟨u, hrun, hright.not_wrong⟩

end Sys2Proof.Machine
end

section
/-! PROOFS. The timing classifier: the comparators and the selection of a window (spec/40_classifier.md R100, R101). -/

namespace Sys2Proof.Machine

@[simp] theorem first_nil (m : Four Bool) : first m [] = none := rfl

@[simp] theorem first_cons (m : Four Bool) (i : Fin 4) (rest : List (Fin 4)) :
    first m (i :: rest) = if m.get i then some i else first m rest := rfl

/-- FIRST is the library's search of a list for an element that meets a test, here its match bit. -/
theorem first_eq_find? (m : Four Bool) (order : List (Fin 4)) : first m order = order.find? m.get := by
  induction order with
  | nil => simp
  | cons i rest ih => cases h : m.get i <;> simp [h, ih]

theorem first_eq_none_iff (m : Four Bool) (order : List (Fin 4)) :
    first m order = none ↔ ∀ i ∈ order, m.get i = false := by
  simp [first_eq_find?, List.find?_eq_none]

theorem first_eq_some_iff (m : Four Bool) (order : List (Fin 4)) (k : Fin 4) :
    first m order = some k ↔
      ∃ pre post, order = pre ++ k :: post ∧ m.get k = true ∧ ∀ i ∈ pre, m.get i = false := by
  simp [first_eq_find?, List.find?_eq_some_iff_append, and_left_comm]

/-- Match bit `i` compares the duration with both bounds of window `i`, each inclusive. -/
theorem matchBits_get_iff (d : Word) (win : Four Window) (i : Fin 4) :
    (matchBits d win).get i = true ↔
      windowLo (win.get i) ≤ (d.toNat : Int) ∧ (d.toNat : Int) ≤ windowHi (win.get i) := by
  rw [matchBits_get, winMatch_iff]

/-- Settles O23: FIRST is `List.find?` on the match bits, which stops at the earliest match. -/
theorem firstSelectsTheEarliestMatch : Obligations.FirstSelectsTheEarliestMatch :=
  fun m order => ⟨first_eq_none_iff m order, first_eq_some_iff m order⟩

/-- Settles O22: WIN_MATCH writes the match bits alone, and each is its window's comparison on the integers. -/
theorem windowMatchIsInclusiveOnIntegers : Obligations.WindowMatchIsInclusiveOnIntegers :=
  UnitOperation.of_channel (fun _ => true) (fun _ => Channel.classify) (fun _ => rfl) (fun _ => by simp)
    fun _ c _ => ⟨matchBits c.nets.d c.cfg.win, rfl, matchBits_get_iff c.nets.d c.cfg.win⟩

end Sys2Proof.Machine
end

section
/-! PROOFS. The Pulse-Space decoder: its transitions, its way back to its reset state, and the element of the other
family, which neither decoder reads or writes (spec/41_pulse_space.md R110 to R117, spec/42_biphase_mark.md R129). -/

namespace Sys2Proof.Machine

/-! ### The transitions of PS_DECODE, an equation each -/

section
variable {dec : DecState} {m : Four Bool}

/-- IDLE with a pulse (R111). -/
theorem psDecode_of_pulse (hps : dec.ps = .idle) (h0 : m.get 0 = true) :
    psDecode dec m = (BitBus.none, { dec with ps := .pulseRcvd }) := by
  simp [psDecode, hps, h0]

/-- IDLE with no pulse (R114). -/
theorem psDecode_of_no_pulse (hps : dec.ps = .idle) (h0 : m.get 0 = false) :
    psDecode dec m = (BitBus.none, { dec with cont := false }) := by
  simp [psDecode, hps, h0]

/-- PULSE_RCVD with the space of a 0, tried before the space of a 1 (R112). -/
theorem psDecode_of_space_zero (hps : dec.ps = .pulseRcvd) (h1 : m.get 1 = true) :
    psDecode dec m = (BitBus.bit false dec.cont, { dec with ps := .idle, cont := true }) := by
  simp [psDecode, hps, h1]

/-- PULSE_RCVD with the space of a 1 alone (R112). -/
theorem psDecode_of_space_one (hps : dec.ps = .pulseRcvd) (h1 : m.get 1 = false) (h2 : m.get 2 = true) :
    psDecode dec m = (BitBus.bit true dec.cont, { dec with ps := .idle, cont := true }) := by
  simp [psDecode, hps, h1, h2]

/-- PULSE_RCVD with no space (R113). -/
theorem psDecode_of_no_space (hps : dec.ps = .pulseRcvd) (h1 : m.get 1 = false) (h2 : m.get 2 = false) :
    psDecode dec m = (BitBus.none, { dec with ps := .idle, cont := false }) := by
  simp [psDecode, hps, h1, h2]

end

/-- Settles O24: PS_DECODE is the decoder's stage in the selected channels, and each clause is one transition. -/
theorem pulseSpaceDecodeTransitions : Obligations.PulseSpaceDecodeTransitions := by
  refine UnitOperation.of_channel selPs (fun _ => Channel.psStage) (fun _ => rfl) (fun _ => by simp [selPs])
    fun _ c _ => ⟨fun hps h0 => ?pulse, fun hps h0 => ?noPulse, fun hps h1 => ?spaceZero, fun hps h1 h2 => ?spaceOne,
      fun hps h1 h2 => ?noSpace⟩
  case pulse => rw [Channel.psStage, psDecode_of_pulse hps h0]; rfl
  case noPulse => rw [Channel.psStage, psDecode_of_no_pulse hps h0]; rfl
  case spaceZero => rw [Channel.psStage, psDecode_of_space_zero hps h1]; rfl
  case spaceOne => rw [Channel.psStage, psDecode_of_space_one hps h1 h2]; rfl
  case noSpace => rw [Channel.psStage, psDecode_of_no_space hps h1 h2]; rfl

/-! ### The way back to the reset state -/

/-- With none of its three windows matching PS_DECODE gives no bit and goes back to (IDLE, `dec_cont = 0`) from either
state (R117). -/
theorem psDecode_of_no_match {dec : DecState} {m : Four Bool} (h0 : m.get 0 = false) (h1 : m.get 1 = false)
    (h2 : m.get 2 = false) : psDecode dec m = (BitBus.none, { dec with ps := .idle, cont := false }) := by
  cases hps : dec.ps
  case idle => rw [psDecode_of_no_pulse hps h0, ← hps]
  case pulseRcvd => exact psDecode_of_no_space hps h1 h2

/-- The decoder of a Pulse-Space channel is PS_DECODE. -/
theorem Channel.decoded_of_pulseSpace {c : Channel} (h : c.cfg.family = 0#2) (d : Word) :
    c.decoded d = psDecode c.dec (matchBits d c.cfg.win) := if_pos h

/-- Settles O25: a sample shows what PS_DECODE gives, which with no match is the reset state and no bit. -/
theorem pulseSpaceReturnsToItsStart : Obligations.PulseSpaceReturnsToItsStart := by
  refine SampleOperation.of_channel fun s d c ha hfam h0 h1 h2 => ?_
  have hdecoded : c.decoded d = (BitBus.none, { c.dec with ps := .idle, cont := false }) :=
    (Channel.decoded_of_pulseSpace hfam d).trans
      (psDecode_of_no_match ((matchBits_get ..).trans h0) ((matchBits_get ..).trans h1) ((matchBits_get ..).trans h2))
  obtain ⟨hdec, hbit⟩ := c.sample_decoded d s.tsNow ha
  rw [hdec, hbit, hdecoded]
  exact ⟨rfl, BitBus.none_toBits⟩

/-! ### The element of the other family -/

/-- PS_DECODE does not read `dec_half`: with another value there it does the same to all else (R116). -/
theorem psDecode_with_half (dec : DecState) (m : Four Bool) (h : Bool) :
    psDecode { dec with half := h } m = ((psDecode dec m).1, { (psDecode dec m).2 with half := h }) := by
  rcases psDecode_cases dec m with ⟨hps, h0, e⟩ | ⟨hps, h0, e⟩ | ⟨hps, h1, e⟩ | ⟨hps, h1, h2, e⟩ | ⟨hps, h1, h2, e⟩ <;>
    rw [e]
  · exact psDecode_of_pulse hps h0
  · exact psDecode_of_no_pulse hps h0
  · exact psDecode_of_space_zero hps h1
  · exact psDecode_of_space_one hps h1 h2
  · exact psDecode_of_no_space hps h1 h2

/-- BMC_DECODE does not read `dec_ps`: with another value there it does the same to all else (R129). -/
theorem bmcDecode_with_ps (cfg : Cfg) (dec : DecState) (d : Nat) (m : Four Bool) (p : PsState) :
    bmcDecode cfg { dec with ps := p } d m =
      ((bmcDecode cfg dec d m).1, { (bmcDecode cfg dec d m).2 with ps := p }) := by
  rcases bmcDecode_cases cfg dec d m with ⟨hf, e⟩ | ⟨hf, h0, hh, e⟩ | ⟨hf, h0, hh, e⟩ | ⟨hf, h0, h1, e⟩ |
    ⟨hf, h0, h1, e⟩ <;> rw [e]
  · simp [bmcDecode, hf]
  · simp [bmcDecode, hf, h0, hh]
  · simp [bmcDecode, hf, h0, hh]
  · simp [bmcDecode, hf, h0, h1]
  · simp [bmcDecode, hf, h0, h1]

/-- Settles O26: a sample leaves the other family's element as its decoder does, and neither decoder reads it. -/
theorem decodersLeaveTheOtherFamilysElement : Obligations.DecodersLeaveTheOtherFamilysElement := by
  refine ⟨SampleOperation.of_channel fun s d c ha hfam => ?half, SampleOperation.of_channel fun s d c ha hfam => ?ps,
    psDecode_with_half, bmcDecode_with_ps⟩
  case half => rw [(c.sample_decoded d s.tsNow ha).1, c.decoded_half d hfam]
  case ps => rw [(c.sample_decoded d s.tsNow ha).1, c.decoded_ps d hfam]

end Sys2Proof.Machine
end

section
/-! PROOFS. The Biphase-Mark decoder: its cases, the low-pass filter, its way back to its reset state, and what its
continuity flag remembers of a run of samples (spec/42_biphase_mark.md R120 to R131). -/

namespace Sys2Proof.Machine

/-! ### The cases of BMC_DECODE, an equation each -/

section
variable {cfg : Cfg} {dec : DecState} {d : Nat} {m : Four Bool}

/-- A sample below the filter's threshold (R121). -/
theorem bmcDecode_of_filtered (hf : filtered cfg d = true) : bmcDecode cfg dec d m = (BitBus.none, dec) :=
  if_pos hf

/-- A half with none pending (R123). -/
theorem bmcDecode_of_first_half (hf : filtered cfg d = false) (h0 : m.get 0 = true) (hh : dec.half = false) :
    bmcDecode cfg dec d m = (BitBus.none, { dec with half := true }) := by
  simp [bmcDecode, hf, h0, hh]

/-- A half with one pending: the bit One (R125). -/
theorem bmcDecode_of_second_half (hf : filtered cfg d = false) (h0 : m.get 0 = true) (hh : dec.half = true) :
    bmcDecode cfg dec d m = (BitBus.bit true dec.cont, { dec with half := false, cont := true }) := by
  simp [bmcDecode, hf, h0, hh]

/-- A full interval, whether a half is pending or not: the bit Zero (R126). -/
theorem bmcDecode_of_full (hf : filtered cfg d = false) (h0 : m.get 0 = false) (h1 : m.get 1 = true) :
    bmcDecode cfg dec d m = (BitBus.bit false dec.cont, { dec with half := false, cont := true }) := by
  simp [bmcDecode, hf, h0, h1]

/-- No match (R124). -/
theorem bmcDecode_of_no_match (hf : filtered cfg d = false) (h0 : m.get 0 = false) (h1 : m.get 1 = false) :
    bmcDecode cfg dec d m = (BitBus.none, { dec with half := false, cont := false }) := by
  simp [bmcDecode, hf, h0, h1]

end

/-- The low-pass filter lets every other duration through (R121). -/
theorem filtered_eq_false_iff (cfg : Cfg) (d : Nat) :
    filtered cfg d = false ↔ ¬ (cfg.lpfEn = true ∧ (d : Int) < windowLo (cfg.win.get 0)) := by
  rw [← filtered_iff, Bool.not_eq_true]

/-- Settles O27: BMC_DECODE is the decoder's stage in the selected channels, and each clause is one case. -/
theorem biphaseMarkDecodeTransitions : Obligations.BiphaseMarkDecodeTransitions := by
  refine UnitOperation.of_channel selBmc (fun _ => Channel.bmcStage) (fun _ => rfl) (fun _ => by simp [selBmc])
    fun _ c _ => ?_
  have pass := (filtered_eq_false_iff c.cfg c.nets.d.toNat).2
  refine ⟨fun hdisc => ?discarded, fun hn h0 hh => ?firstHalf, fun hn h0 hh => ?secondHalf, fun hn h0 h1 => ?full,
    fun hn h0 h1 => ?noMatch⟩
  case discarded => rw [Channel.bmcStage, bmcDecode_of_filtered ((filtered_iff ..).2 hdisc)]; rfl
  case firstHalf => rw [Channel.bmcStage, bmcDecode_of_first_half (pass hn) h0 hh]; rfl
  case secondHalf => rw [Channel.bmcStage, bmcDecode_of_second_half (pass hn) h0 hh]; rfl
  case full => rw [Channel.bmcStage, bmcDecode_of_full (pass hn) h0 h1]; rfl
  case noMatch => rw [Channel.bmcStage, bmcDecode_of_no_match (pass hn) h0 h1]; rfl

/-! ### The low-pass filter -/

/-- The decoder of a Biphase-Mark channel is BMC_DECODE. -/
theorem Channel.decoded_of_biphaseMark {c : Channel} (h : c.cfg.family = 1#2) (d : Word) :
    c.decoded d = bmcDecode c.cfg c.dec d.toNat (matchBits d c.cfg.win) :=
  if_neg (by simp [h])

/-- A sample that gives no valid bit changes the decoder and the outputs alone: it frames no message, shows no event
and leaves the framer, the suppressor and the anomaly flag (spec/43_framer.md R136). -/
theorem Channel.sample_of_invalid (c : Channel) (d : Word) (ts : Timestamp) (ha : c.active = true)
    (hv : (c.decoded d).1.valid = false) :
    c.sample d ts =
      { c with
        dec := (c.decoded d).2
        out :=
          { c.out with
            bit := 0b000#3
            frmValid := false
            emit := false
            evtResync := false
            evtAbort := false
            evtCkfail := false
            evtDup := false
            anom := c.anom }
        nets := Nets.idle } := by
  have hframed : c.framed d ts = ⟨c.frm, none, false, false, false⟩ := frameApply_invalid _ _ _ _ hv
  rw [c.sample_none d ts ha (congrArg FrameResult.msg hframed), hframed, c.decoded_toBits_of_invalid d hv]

/-- A threshold at or below 0 is below no duration: the filter discards nothing (R131). -/
theorem filtered_of_center_le_tol {cfg : Cfg} (h : (cfg.win.get 0).center.toNat ≤ (cfg.win.get 0).tol.toNat) (d : Nat) :
    filtered cfg d = false := by
  rw [filtered_eq_false_iff, windowLo]
  omega

/-- Settles O28: a discarded sample gives no bit and leaves the decoder, so it leaves the units behind it. -/
theorem lowPassFilterDiscardsTheSample : Obligations.LowPassFilterDiscardsTheSample := by
  refine ⟨SampleOperation.of_channel fun s d c ha ⟨hfam, hlpf⟩ hd => ?_, fun _ d h => filtered_of_center_le_tol h d⟩
  have hdecoded : c.decoded d = (BitBus.none, c.dec) :=
    (Channel.decoded_of_biphaseMark hfam d).trans (bmcDecode_of_filtered ((filtered_iff ..).2 ⟨hlpf, hd⟩))
  rw [c.sample_of_invalid d s.tsNow ha (by rw [hdecoded]; rfl), hdecoded]
  exact ⟨rfl, rfl, rfl, rfl, rfl⟩

/-! ### The way back to the reset state -/

/-- With neither window matching BMC_DECODE gives no bit, discarded or not (R121, R124). -/
theorem bmcDecode_bus_of_no_match {cfg : Cfg} {dec : DecState} {d : Nat} {m : Four Bool} (h0 : m.get 0 = false)
    (h1 : m.get 1 = false) : (bmcDecode cfg dec d m).1 = BitBus.none := by
  cases hf : filtered cfg d
  · rw [bmcDecode_of_no_match hf h0 h1]
  · rw [bmcDecode_of_filtered hf]

/-- Settles O29: a sample shows what BMC_DECODE gives, which with no match is no bit, and the reset state unless the
filter discards the sample. -/
theorem biphaseMarkReturnsToItsStart : Obligations.BiphaseMarkReturnsToItsStart := by
  refine SampleOperation.of_channel fun s d c ha hfam hw0 hw1 => ?_
  have h0 : (matchBits d c.cfg.win).get 0 = false := (matchBits_get ..).trans hw0
  have h1 : (matchBits d c.cfg.win).get 1 = false := (matchBits_get ..).trans hw1
  obtain ⟨hdec, hbit⟩ := c.sample_decoded d s.tsNow ha
  rw [hdec, hbit, Channel.decoded_of_biphaseMark hfam]
  refine ⟨by rw [bmcDecode_bus_of_no_match h0 h1, BitBus.none_toBits], fun hpass => ?passed, fun hlpf hlo => ?discarded⟩
  case passed =>
    have hf : filtered c.cfg d.toNat = false := by
      rwa [filtered_eq_false_iff, not_and_or, Bool.not_eq_true, not_lt]
    rw [bmcDecode_of_no_match hf h0 h1]
  case discarded => rw [bmcDecode_of_filtered ((filtered_iff ..).2 ⟨hlpf, hlo⟩)]

/-! ### What the continuity flag remembers -/

@[simp] theorem BitBus.none_valid : BitBus.none.valid = false := rfl

@[simp] theorem BitBus.bit_valid (v i : Bool) : (BitBus.bit v i).valid = true := rfl

/-- A valid bit carries the continuity flag that stood before the sample (R127). -/
theorem bmcDecode_instream {cfg : Cfg} {dec : DecState} {d : Nat} {m : Four Bool}
    (hv : (bmcDecode cfg dec d m).1.valid = true) : (bmcDecode cfg dec d m).1.instream = dec.cont := by
  rcases bmcDecode_cases cfg dec d m with ⟨-, e⟩ | ⟨-, -, -, e⟩ | ⟨-, -, -, e⟩ | ⟨-, -, -, e⟩ | ⟨-, -, -, e⟩ <;>
    rw [e] at hv ⊢
  · cases hv
  · cases hv
  · rfl
  · rfl
  · cases hv

/-- The sample does not break the stream: it is discarded, or one of the two windows matches (R127). -/
def KeepsStream (cfg : Cfg) (d : Word) : Prop :=
  filtered cfg d.toNat = true ∨ winMatch d.toNat (cfg.win.get 0) = true ∨ winMatch d.toNat (cfg.win.get 1) = true

/-- The sample, taken by the decoder in the given state, gives a valid bit. -/
def GivesBit (cfg : Cfg) (dec : DecState) (d : Word) : Prop :=
  (bmcDecode cfg dec d.toNat (matchBits d cfg.win)).1.valid = true

/-- One sample leaves the continuity flag 1 exactly when it gives a valid bit, or finds the flag 1 and does not break
the stream. -/
theorem bmcDecode_cont_iff (cfg : Cfg) (dec : DecState) (d : Word) :
    (bmcDecode cfg dec d.toNat (matchBits d cfg.win)).2.cont = true ↔
      GivesBit cfg dec d ∨ KeepsStream cfg d ∧ dec.cont = true := by
  unfold GivesBit KeepsStream
  rw [← matchBits_get, ← matchBits_get]
  rcases bmcDecode_cases cfg dec d.toNat (matchBits d cfg.win) with ⟨hf, e⟩ | ⟨-, h0, -, e⟩ | ⟨-, -, -, e⟩ |
    ⟨-, -, -, e⟩ | ⟨hf, h0, h1, e⟩ <;> rw [e]
  · simp [hf]
  · simp [h0]
  · simp
  · simp
  · simp [hf, h0, h1]

theorem bmcRun_nil (cfg : Cfg) (dec : DecState) : bmcRun cfg dec [] = dec := rfl

theorem bmcRun_concat (cfg : Cfg) (dec : DecState) (ds : List Word) (d : Word) :
    bmcRun cfg dec (ds ++ [d]) =
      (bmcDecode cfg (bmcRun cfg dec ds) d.toNat (matchBits d cfg.win)).2 := by
  simp [bmcRun]

/-- Somewhere in the list an element is marked, given what comes before it, and every element after it is kept. -/
def MarkedThenKept {α : Type} (marked : List α → α → Prop) (kept : α → Prop) (l : List α) : Prop :=
  ∃ (pre : List α) (a : α) (post : List α), l = pre ++ a :: post ∧ marked pre a ∧ ∀ b ∈ post, kept b

section
variable {α : Type} (marked : List α → α → Prop) (kept : α → Prop)

theorem not_markedThenKept_nil : ¬ MarkedThenKept marked kept [] := by
  rintro ⟨pre, a, post, h, -⟩
  simp at h

/-- With one more element at the end, either it is the marked one, or it is kept and the marked one came before. -/
theorem markedThenKept_concat_iff (l : List α) (a : α) :
    MarkedThenKept marked kept (l ++ [a]) ↔ marked l a ∨ kept a ∧ MarkedThenKept marked kept l := by
  constructor
  · rintro ⟨pre, b, post, h, hb, hpost⟩
    rcases post.eq_nil_or_concat' with rfl | ⟨post, c, rfl⟩
    · obtain ⟨rfl, rfl⟩ : l = pre ∧ a = b := by simpa using h
      exact .inl hb
    · rw [← List.cons_append, ← List.append_assoc] at h
      obtain ⟨rfl, hac⟩ := List.append_inj' h rfl
      obtain rfl := List.singleton_inj.1 hac
      exact .inr ⟨hpost a (by simp), pre, b, post, rfl, hb, fun c hc => hpost c (by simp [hc])⟩
  · rintro (ha | ⟨ha, pre, b, post, rfl, hb, hpost⟩)
    · exact ⟨l, a, [], rfl, ha, nofun⟩
    · refine ⟨pre, b, post ++ [a], by simp, hb, fun c hc => ?_⟩
      rcases List.mem_append.1 hc with hc | hc
      · exact hpost c hc
      · rwa [List.mem_singleton.1 hc]

end

/-- From a state with the flag 0, a run ends with the flag 1 exactly when one of its samples gave a valid bit and no
later one broke the stream. -/
theorem bmcRun_cont_iff (cfg : Cfg) {dec : DecState} (hdec : dec.cont = false) (ds : List Word) :
    (bmcRun cfg dec ds).cont = true ↔
      MarkedThenKept (fun pre d => GivesBit cfg (bmcRun cfg dec pre) d) (KeepsStream cfg) ds := by
  induction ds using List.reverseRecOn with
  | nil => simp [bmcRun_nil, hdec, not_markedThenKept_nil]
  | append_singleton ds d ih => rw [bmcRun_concat, bmcDecode_cont_iff, markedThenKept_concat_iff, ih]

/-- Settles O30, by induction on the run, the last sample taken off first: `bmcDecode_cont_iff` is its step. -/
theorem continuityRemembersTheLastBit : Obligations.ContinuityRemembersTheLastBit :=
  ⟨fun _ _ _ _ => bmcDecode_instream, fun cfg ds => bmcRun_cont_iff cfg rfl ds⟩

end Sys2Proof.Machine
end

section
/-! PROOFS. FRAME_APPLY, one bit at a time: the bit without `valid`, the aborting, the completing and the advancing bit,
and the discarded telegram (spec/43_framer.md R135 to R155, R157). -/

namespace Sys2Proof.Machine

/-! ### What a valid bit does, an equation each -/

section
variable {cfg : Cfg} {f : FrmState} {bit : BitBus} (ts : Timestamp)

/-- A valid bit acts on the telegram entry (R137, R138). -/
theorem frameApply_of_valid (hv : bit.valid = true) :
    frameApply cfg f bit ts = frameFrom cfg (telegramEntry cfg f bit) bit.value ts (resyncs f bit) := by
  rw [frameApply_valid _ _ _ _ hv, frameEnter_eq]

/-- A bit that the preamble validator refuses aborts the telegram, whatever its offset (R140, R151). -/
theorem frameApply_of_refused (hv : bit.valid = true) (hpre : PreambleRefuses cfg (telegramEntry cfg f bit) bit) :
    frameApply cfg f bit ts =
      { frm := { telegramEntry cfg f bit with cursor := 0 }, msg := none, resync := resyncs f bit, abort := true
        ckfail := false } := by
  rw [frameApply_of_valid ts hv, frameFrom, if_pos ((preambleMismatch_iff ..).2 hpre)]

/-- The last bit is placed, and the final check decides between a message and a failed check (R150, R154). -/
theorem frameApply_of_last (hv : bit.valid = true) (hpre : ¬ PreambleRefuses cfg (telegramEntry cfg f bit) bit)
    (hlast : (telegramEntry cfg f bit).cursor.toNat + 1 = cfg.nBits.toNat) :
    frameApply cfg f bit ts =
      { frm := { framePlace cfg (telegramEntry cfg f bit) bit.value with cursor := 0 }
        msg := if ckFinal cfg (framePlace cfg (telegramEntry cfg f bit) bit.value) then
            some ⟨sextAll cfg (framePlace cfg (telegramEntry cfg f bit) bit.value).fld, ts⟩
          else none
        resync := resyncs f bit
        abort := false
        ckfail := !ckFinal cfg (framePlace cfg (telegramEntry cfg f bit) bit.value) } := by
  rw [frameApply_of_valid ts hv, frameFrom, if_neg ((preambleMismatch_iff ..).not.2 hpre),
    if_pos ((atLast_iff ..).2 hlast)]

/-- A bit before the last is placed, and the cursor advances (R155). -/
theorem frameApply_of_not_last (hv : bit.valid = true) (hpre : ¬ PreambleRefuses cfg (telegramEntry cfg f bit) bit)
    (hlast : (telegramEntry cfg f bit).cursor.toNat + 1 ≠ cfg.nBits.toNat) :
    frameApply cfg f bit ts =
      { frm := { framePlace cfg (telegramEntry cfg f bit) bit.value with
                 cursor := (telegramEntry cfg f bit).cursor + 1 }
        msg := none, resync := resyncs f bit, abort := false, ckfail := false } := by
  rw [frameApply_of_valid ts hv, frameFrom, if_neg ((preambleMismatch_iff ..).not.2 hpre),
    if_neg ((atLast_iff ..).not.2 hlast)]

end

/-- A claim about FRAME_APPLY follows from the claim about the framer of a channel with a legal configuration. -/
theorem UnitOperation.of_frameStage {P : State → Channel → Channel → Prop}
    (hP : ∀ (s : State) (c : Channel), legal c.cfg = true → P s c (c.frameStage s.tsNow)) :
    UnitOperation .frameApply (fun _ => True) P :=
  UnitOperation.of_channel (fun _ => true) (fun s => Channel.frameStage s.tsNow) (fun _ => rfl) (fun _ => by simp)
    fun s c ⟨_, hl, _⟩ => hP s c hl

/-- Settles O31: FRAME_APPLY without a valid bit. -/
theorem invalidBitLeavesTheFramer : Obligations.InvalidBitLeavesTheFramer := by
  refine UnitOperation.of_frameStage fun s c _ hv => ?_
  rw [Channel.frameStage, frameApply_invalid _ _ _ _ hv]

/-- Settles O33: the refused bit is looked at before the offset. -/
theorem preambleMismatchAborts : Obligations.PreambleMismatchAborts := by
  refine UnitOperation.of_frameStage fun s c _ => ?_
  intro e hv hpre
  rw [Channel.frameStage, frameApply_of_refused s.tsNow hv hpre, resyncs_eq]

/-- Settles O36: the verdict reads the accumulators and the fields, which the cursor's return to 0 leaves. -/
theorem lastBitCompletesTheTelegram : Obligations.LastBitCompletesTheTelegram := by
  refine UnitOperation.of_frameStage fun s c _ => ?_
  intro e hv hpre hlast pass
  have happly := frameApply_of_last s.tsNow hv hpre hlast
  have hpass : pass ↔ ckFinal c.cfg (framePlace c.cfg e c.nets.bit.value) = true := by
    rw [ckFinal_iff]
    simp only [pass, Channel.frameStage_frm, happly, e]
  rw [hpass, Channel.frameStage, happly]
  exact ⟨rfl, rfl, fun h => ⟨if_pos h, congrArg (! ·) h⟩,
    fun h => ⟨if_neg h, congrArg (! ·) (Bool.eq_false_of_not_eq_true h)⟩⟩

/-- Settles O37: a bit before the last aborts or goes on, and FRAME_APPLY is the framer's stage of a channel. -/
theorem bitBeforeTheLastGivesNoMessage : Obligations.BitBeforeTheLastGivesNoMessage := by
  refine UnitOperation.of_frameStage fun s c _ => ⟨⟨_, _, _, _, _, rfl⟩, fun hv hlast => ?_⟩
  rw [Channel.frameStage, ← resyncs_eq]
  by_cases hpre : PreambleRefuses c.cfg (telegramEntry c.cfg c.frm c.nets.bit) c.nets.bit
  · rw [frameApply_of_refused s.tsNow hv hpre]
    exact ⟨rfl, rfl, rfl⟩
  · rw [frameApply_of_not_last s.tsNow hv hpre hlast]
    exact ⟨rfl, rfl, rfl⟩

/-! ### Where a placed bit goes -/

/-- Under a legal configuration a placed bit changes the one bit of the field that covers the cursor (R141, R142). -/
theorem getLsbD_framePlace_fld {cfg : Cfg} (hl : legal cfg = true) (f : FrmState) (b : Bool) (i : Fin 8) (p : Nat) :
    ((framePlace cfg f b).fld.get i).getLsbD p =
      if covers (cfg.fld.get i) f.cursor.toNat = true ∧ p = bitPos (cfg.fld.get i) f.cursor.toNat then b
      else (f.fld.get i).getLsbD p := by
  rw [framePlace_fld, fieldWrite_get, getLsbD_writeField _ _ _ _ _ fun he => (range_of_legal hl i he).2.1]

/-- Settles O34: the field registers are those of `framePlace` at the last offset and before it; the cursor of six bits
does not wrap before N. -/
theorem placedBitGoesToItsField : Obligations.PlacedBitGoesToItsField := by
  refine UnitOperation.of_frameStage fun s c hl => ?_
  intro e hv hpre hlt
  have hplaced := getLsbD_framePlace_fld hl e c.nets.bit.value
  simp only [covers_iff, and_assoc, bitPos] at hplaced
  rw [Channel.frameStage_frm]
  by_cases hlast : e.cursor.toNat + 1 = c.cfg.nBits.toNat
  · rw [frameApply_of_last s.tsNow hv hpre hlast]
    exact ⟨hplaced, fun h => absurd hlast h.ne, fun _ => rfl⟩
  · rw [frameApply_of_not_last s.tsNow hv hpre hlast]
    refine ⟨hplaced, fun h => ?_, fun h => absurd h hlast⟩
    have hn := (nBits_of_legal hl).2
    exact BitVec.toNat_add_of_lt (show e.cursor.toNat + 1 < 2 ^ 6 by omega)

/-! ### The discarded telegram -/

/-- The resync flag is handed through, and nothing else depends on it (R137). -/
theorem frameFrom_resync (cfg : Cfg) (f : FrmState) (b : Bool) (ts : Timestamp) (r r' : Bool) :
    frameFrom cfg f b ts r = { frameFrom cfg f b ts r' with resync := r } := by
  unfold frameFrom
  split_ifs <;> rfl

/-- Settles O32: the telegram entry is START_VALUES from either state. -/
theorem resyncForgetsTheTelegram : Obligations.ResyncForgetsTheTelegram := by
  intro cfg f bit ts hv hstart
  have hentry : telegramEntry cfg f bit = frameStart cfg := if_pos hstart.symm
  have hresync : resyncs f bit = decide (f.cursor ≠ 0#6) := by
    rw [resyncs_eq]
    rcases hstart with h | h <;> simp [h]
  have hfresh := frameApply_of_valid (cfg := cfg) (f := frameStart cfg) ts hv
  rw [show telegramEntry cfg (frameStart cfg) bit = frameStart cfg from if_pos (.inl rfl)] at hfresh
  rw [frameApply_of_valid ts hv, hentry, hresync, frameFrom_resync _ _ _ _ _ (resyncs (frameStart cfg) bit), ← hfresh]
  rfl

end Sys2Proof.Machine
end

section
/-! PROOFS. The check units, each run alone at an offset (spec/43_framer.md R144 to R149). -/

namespace Sys2Proof.Machine

/-! ### The check stage -/

section
variable {c : Channel} (update : Cfg → FrmState → Bool → FrmState) (final : Cfg → FrmState → Bool)

theorem Channel.checkStage_of_invalid (hv : c.nets.bit.valid = false) : c.checkStage update final = c := by
  simp [Channel.checkStage, hv]

theorem Channel.checkStage_of_valid (hv : c.nets.bit.valid = true) :
    c.checkStage update final =
      { c with
        frm := update c.cfg c.frm c.nets.bit.value
        nets := { c.nets with ckPass := final c.cfg (update c.cfg c.frm c.nets.bit.value) } } :=
  if_pos hv

end

/-! ### No check -/

/-- Settles O43: the check stage whose update is no change and whose verdict is always 1. -/
theorem noCheckPassesEveryTelegram : Obligations.NoCheckPassesEveryTelegram :=
  UnitOperation.of_channel selChkNone (fun _ => Channel.checkStage (fun _ f _ => f) (fun _ _ => true)) (fun _ => rfl)
    (fun _ => by simp [selChkNone])
    fun _ _ _ => ⟨Channel.checkStage_of_invalid _ _, Channel.checkStage_of_valid _ _⟩

/-! ### The nibble checksum -/

/-- An offset that is not masked leaves the framer's state (R144). -/
theorem nibbleUpdate_of_unmasked {cfg : Cfg} {f : FrmState} (h : cfg.ckMask.getLsbD f.cursor.toNat = false) (b : Bool) :
    nibbleUpdate cfg f b = f := by
  simp [nibbleUpdate, ckMasked, h]

/-- A masked bit is shifted in and counted, and the fourth of its nibble subtracts it from the accumulator (R145). -/
theorem nibbleUpdate_of_masked {cfg : Cfg} {f : FrmState} (h : cfg.ckMask.getLsbD f.cursor.toNat = true) (b : Bool) :
    (nibbleUpdate cfg f b).ckNib.toNat = (2 * f.ckNib.toNat + b.toNat) % 16 ∧
    (nibbleUpdate cfg f b).ckCnt.toNat = (f.ckCnt.toNat + 1) % 4 ∧
    (f.ckCnt.toNat = 3 →
      (nibbleUpdate cfg f b).ckAcc.toNat = (f.ckAcc.toNat + 16 - (nibbleUpdate cfg f b).ckNib.toNat) % 16) ∧
    (f.ckCnt.toNat ≠ 3 → (nibbleUpdate cfg f b).ckAcc = f.ckAcc) := by
  have hcnt : f.ckCnt.toNat = 3 ↔ f.ckCnt = 3#2 := (BitVec.toNat_eq (y := 3#2)).symm
  rw [nibbleUpdate, ckMasked, if_pos h]
  refine ⟨nibble_shift .., BitVec.toNat_add .., fun h3 => ?fourth, fun h3 => if_neg (hcnt.not.1 h3)⟩
  case fourth =>
    simp only [if_pos (hcnt.1 h3)]
    rw [BitVec.toNat_sub]
    congr 1
    omega

/-- The nibble checksum's verdict (R146). -/
theorem nibblePass_iff (cfg : Cfg) (f : FrmState) :
    nibblePass cfg f = true ↔ f.ckAcc.toNat = (f.fld.get cfg.ckField.toFin).toNat % 16 := by
  simp [nibblePass, BitVec.toNat_eq, BitVec.extractLsb'_toNat]

/-- Settles O40: the check stage of NIBBLE_SUB, at an offset that is masked and at one that is not. -/
theorem nibbleChecksumUnit : Obligations.NibbleChecksumUnit := by
  refine UnitOperation.of_channel selChkNibble (fun _ => Channel.checkStage nibbleUpdate nibblePass) (fun _ => rfl)
    (fun _ => by simp [selChkNibble]) fun _ c _ => ⟨Channel.checkStage_of_invalid _ _, fun hv => ?_⟩
  refine ⟨_, _, Channel.checkStage_of_valid _ _ hv, ?verdict, fun h => nibbleUpdate_of_unmasked h _, fun h => ?masked⟩
  case verdict => rw [nibblePass_iff, nibbleUpdate_fld]
  case masked =>
    exact ⟨nibbleUpdate_cursor .., nibbleUpdate_fld .., nibbleUpdate_par .., nibbleUpdate_of_masked h _⟩

/-! ### The XOR parity -/

/-- XOR_PARITY touches nothing but the parity bits (R147). -/
theorem parityUpdate_eq (cfg : Cfg) (f : FrmState) (b : Bool) :
    parityUpdate cfg f b = { f with par := (parityUpdate cfg f b).par } := by
  unfold parityUpdate
  split <;> rfl

/-- An offset that is not masked leaves the framer's state (R144). -/
theorem parityUpdate_of_unmasked {cfg : Cfg} {f : FrmState} (h : cfg.ckMask.getLsbD f.cursor.toNat = false) (b : Bool) :
    parityUpdate cfg f b = f := by
  simp [parityUpdate, ckMasked, h]

/-- A masked bit toggles the parity bit its offset feeds, and leaves the other (R147). -/
theorem parityUpdate_of_masked {cfg : Cfg} {f : FrmState} (h : cfg.ckMask.getLsbD f.cursor.toNat = true) (b : Bool)
    {g : Nat} (hg : g < 2) :
    (parityUpdate cfg f b).par.getLsbD g =
      if g = parityGroup cfg f then f.par.getLsbD g ^^ b else f.par.getLsbD g := by
  have hgroup : parityGroup cfg f < 2 := by
    unfold parityGroup
    split <;> omega
  rw [parityUpdate, ckMasked, if_pos h]
  exact parity_toggle _ _ _ _ hgroup hg

/-- The parity's verdict: bit 0, and under EVEN_ODD bit 1 too, are as expected (R148). -/
theorem parityPass_iff (cfg : Cfg) (f : FrmState) :
    parityPass cfg f = true ↔ f.par.getLsbD 0 = cfg.parExp.getLsbD 0 ∧
      (cfg.parMode = true → f.par.getLsbD 1 = cfg.parExp.getLsbD 1) := by
  simp [parityPass, imp_iff_not_or]

/-- Settles O42: the check stage of XOR_PARITY, at an offset that is masked and at one that is not. -/
theorem xorParityUnit : Obligations.XorParityUnit := by
  refine UnitOperation.of_channel selChkParity (fun _ => Channel.checkStage parityUpdate parityPass) (fun _ => rfl)
    (fun _ => by simp [selChkParity]) fun _ c _ => ⟨Channel.checkStage_of_invalid _ _, fun hv => ?_⟩
  refine ⟨(parityUpdate c.cfg c.frm c.nets.bit.value).par, _, ?after, parityPass_iff .., fun h => ?unmasked,
    fun h _ hg => parityUpdate_of_masked h _ hg⟩
  case after => rw [← parityUpdate_eq, Channel.checkStage_of_valid _ _ hv]
  case unmasked => rw [parityUpdate_of_unmasked h]

end Sys2Proof.Machine
end

section
/-! PROOFS. The message value of a field (spec/43_framer.md R152, R153). -/

namespace Sys2Proof.Machine

/-- The bits that sign extension sets: those from `wid` up to `sx_w` (R152). -/
theorem testBit_signMask {w x : Nat} (h : w ≤ x) (j : Nat) :
    ((2 ^ x - 1) - (2 ^ w - 1)).testBit j = (decide (w ≤ j) && decide (j < x)) := by
  have hmask : (2 ^ x - 1) - (2 ^ w - 1) = 2 ^ w * (2 ^ (x - w) - 1) := by
    rw [Nat.mul_sub, ← pow_add, Nat.add_sub_cancel' h]
    have := Nat.one_le_two_pow (n := w)
    omega
  rw [hmask, Nat.testBit_two_pow_mul, Nat.testBit_two_pow_sub_one]
  by_cases hj : w ≤ j
  · simp [hj, Nat.sub_lt_sub_iff_right hj]
  · simp [hj]

/-- The bits of a signed field's value (R152). -/
theorem getLsbD_signExtend (fc : FieldCfg) (v : Word) (j : Nat)
    (hx : fc.sext = true → fc.wid.toNat ≤ fc.sxW.toNat ∧ fc.sxW.toNat ≤ 32) :
    (signExtend fc v).getLsbD j = (v.getLsbD j ||
      (fc.sext && v.getLsbD (fc.wid.toNat - 1)) && (decide (fc.wid.toNat ≤ j) && decide (j < fc.sxW.toNat))) := by
  unfold signExtend
  cases hs : fc.sext && v.getLsbD (fc.wid.toNat - 1)
  · simp
  · obtain ⟨hwx, hx32⟩ := hx (Bool.and_eq_true_iff.1 hs).1
    rw [if_pos rfl, BitVec.getLsbD_or, BitVec.getLsbD_ofNat, testBit_signMask hwx, Bool.true_and]
    by_cases hj : j < fc.sxW.toNat
    · simp [hj, show j < 32 by omega]
    · simp [hj]

/-- Settles O39: below `wid` the extension sets nothing, and above it the raw value is 0. -/
theorem signExtensionCopiesTheSignBit : Obligations.SignExtensionCopiesTheSignBit := by
  refine ⟨fun fc v j he _ _ hv hx => ?_, fun fc v he => by simp [messageField, he], sextAll_get⟩
  rw [messageField, if_pos he, getLsbD_signExtend fc v j hx]
  by_cases hj : j < fc.wid.toNat
  · simp [hj]
  · rw [getLsbD_of_toNat_lt v _ hv j (by omega)]
    by_cases hjx : j < fc.sxW.toNat <;> simp [hj, hjx, show fc.wid.toNat ≤ j by omega]

end Sys2Proof.Machine
end

section
/-! PROOFS. The framer's strobes of a sample (spec/60_exceptions.md R203). -/

namespace Sys2Proof.Machine

/-- FRAME_APPLY raises the resync event exactly when a valid bit breaks a telegram in progress (R136, R137). -/
theorem frameApply_resync (cfg : Cfg) (f : FrmState) (bit : BitBus) (ts : Timestamp) :
    (frameApply cfg f bit ts).resync = (bit.valid && resyncs f bit) := by
  cases hv : bit.valid
  · rw [frameApply_invalid _ _ _ _ hv, Bool.false_and]
  · rw [frameApply_of_valid ts hv, Bool.true_and]
    exact congrArg FrameResult.resync (frameFrom_resync _ _ _ _ _ (resyncs f bit))

/-- Without a valid bit FRAME_APPLY gives no abort, no failed check and no message (R136). -/
theorem valid_of_frameApply_strobe {cfg : Cfg} {f : FrmState} {bit : BitBus} {ts : Timestamp}
    (h : (frameApply cfg f bit ts).abort = true ∨ (frameApply cfg f bit ts).ckfail = true ∨
      (frameApply cfg f bit ts).msg.isSome = true) : bit.valid = true := by
  by_contra hv
  rw [frameApply_invalid _ _ _ _ (Bool.eq_false_of_not_eq_true hv)] at h
  simp at h

/-- A sample shows the framer's result on its strobes (R45, R46, R48). -/
theorem Channel.sample_framer_strobes {c : Channel} (d : Word) (ts : Timestamp) (ha : c.active = true) :
    (c.sample d ts).out.evtResync = (c.framed d ts).resync ∧ (c.sample d ts).out.evtAbort = (c.framed d ts).abort ∧
      (c.sample d ts).out.evtCkfail = (c.framed d ts).ckfail ∧
      (c.sample d ts).out.frmValid = (c.framed d ts).msg.isSome := by
  cases hm : (c.framed d ts).msg with
  | none => rw [c.sample_none d ts ha hm]; exact ⟨rfl, rfl, rfl, rfl⟩
  | some msg => rw [c.sample_some d ts msg ha hm]; exact ⟨rfl, rfl, rfl, rfl⟩

/-- Settles O18: the strobes show the framer's result, and `o_bit` the bit that the framer took. -/
theorem sampleStrobesExcludeEachOther : Obligations.SampleStrobesExcludeEachOther := by
  refine SampleOperation.of_channel fun s d c ha _ => ⟨c.sample_strobesAgree d s.tsNow ha, ?_⟩
  obtain ⟨hresync, habort, hckfail, hmsg⟩ := c.sample_framer_strobes d s.tsNow ha
  obtain ⟨hvalid, hinstream⟩ := (c.decoded d).1.toBits_getLsbD
  rw [hresync, habort, hckfail, hmsg, (c.sample_decoded d s.tsNow ha).2, hvalid, hinstream]
  refine ⟨fun h => ?_, valid_of_frameApply_strobe⟩
  rw [Channel.framed, frameApply_resync, resyncs_eq] at h
  obtain ⟨hv, hcur, hin⟩ :
      (c.decoded d).1.valid = true ∧ c.frm.cursor ≠ 0#6 ∧ (c.decoded d).1.instream = false := by
    simpa using h
  exact ⟨hcur, hv, hin⟩

end Sys2Proof.Machine
end

section
/-! PROOFS. A whole telegram: the framer that is fed its bits holds them in its field registers, and their masked bits
in the nibble checksum (spec/43_framer.md R141, R143, R145, R149, R150). -/

namespace Sys2Proof.Machine

/-! ### The bits of a telegram, and the framer that has placed them -/

/-- Bit j of a telegram on the bus: valid, and in-stream after the first. -/
def telegramBus (i0 : Bool) (j : Nat) (b : Bool) : BitBus := ⟨b, true, if j = 0 then i0 else true⟩

/-- The bits of a telegram on the bus, from offset 0 on. -/
def telegram (i0 : Bool) (bits : List Bool) : List BitBus := bits.mapIdx (telegramBus i0)

/-- Every preamble position among the bits is as expected (R140). -/
def PreambleMet (cfg : Cfg) (bits : List Bool) : Prop :=
  ∀ c < bits.length, cfg.preMask.getLsbD c = true → bits[c]? = some (cfg.preVal.getLsbD c)

/-- The framer's state with the bits placed from offset 0 on, the cursor at the offset after them (R138, R141). -/
def placedBits (cfg : Cfg) (bits : List Bool) : FrmState :=
  bits.foldl (fun f b => { framePlace cfg f b with cursor := f.cursor + 1 }) (frameStart cfg)

theorem telegram_concat (i0 : Bool) (bits : List Bool) (b : Bool) :
    telegram i0 (bits ++ [b]) = telegram i0 bits ++ [telegramBus i0 bits.length b] := List.mapIdx_concat

theorem frameRun_telegram_concat (cfg : Cfg) (f : FrmState) (i0 : Bool) (bits : List Bool) (b : Bool) :
    frameRun cfg f (telegram i0 (bits ++ [b])) =
      (frameApply cfg (frameRun cfg f (telegram i0 bits)) (telegramBus i0 bits.length b) 0).frm := by
  simp [frameRun, telegram_concat]

theorem placedBits_concat (cfg : Cfg) (bits : List Bool) (b : Bool) :
    placedBits cfg (bits ++ [b]) =
      { framePlace cfg (placedBits cfg bits) b with cursor := (placedBits cfg bits).cursor + 1 } := by
  simp [placedBits]

theorem placedBits_cursor (cfg : Cfg) (bits : List Bool) :
    (placedBits cfg bits).cursor = BitVec.ofNat 6 bits.length := by
  induction bits using List.reverseRecOn with
  | nil => rfl
  | append_singleton bits b ih => rw [placedBits_concat, ih, List.length_append, BitVec.ofNat_add]; rfl

theorem placedBits_cursor_toNat (cfg : Cfg) {bits : List Bool} (h : bits.length < 64) :
    (placedBits cfg bits).cursor.toNat = bits.length := by
  rw [placedBits_cursor, BitVec.toNat_ofNat]
  exact Nat.mod_eq_of_lt h

theorem PreambleMet.of_concat {cfg : Cfg} {bits : List Bool} {b : Bool} (h : PreambleMet cfg (bits ++ [b])) :
    PreambleMet cfg bits := by
  intro c hc hm
  rw [← h c (by simp; omega) hm, List.getElem?_append_left hc]

/-- The bit after the placed ones is not refused when the preamble is met with it. -/
theorem PreambleMet.not_refuses {cfg : Cfg} {bits : List Bool} {b : Bool} (h : PreambleMet cfg (bits ++ [b]))
    (hlen : bits.length < 64) (i0 : Bool) :
    ¬ PreambleRefuses cfg (placedBits cfg bits) (telegramBus i0 bits.length b) := by
  rintro ⟨hmask, hne⟩
  rw [placedBits_cursor_toNat cfg hlen] at hmask hne
  have hmet := h bits.length (by simp) hmask
  rw [List.getElem?_concat_length] at hmet
  exact hne (Option.some.inj hmet)

/-! ### The framer finds its telegram -/

section
variable {cfg : Cfg} {f : FrmState} (hl : legal cfg = true) (hf : f.cursor = 0#6) (i0 : Bool)
include hl hf

/-- The next bit of a telegram finds the bits before it placed, and breaks no telegram. -/
theorem telegramEntry_frameRun {bits : List Bool} (hlen : bits.length < cfg.nBits.toNat) (hpre : PreambleMet cfg bits)
    (b : Bool) :
    telegramEntry cfg (frameRun cfg f (telegram i0 bits)) (telegramBus i0 bits.length b) = placedBits cfg bits ∧
      resyncs (frameRun cfg f (telegram i0 bits)) (telegramBus i0 bits.length b) = false := by
  have hn := (nBits_of_legal hl).2
  induction bits using List.reverseRecOn generalizing b with
  | nil => exact ⟨if_pos (.inl hf), by simp [resyncs, frameRun, telegram, hf]⟩
  | append_singleton bits b' ih =>
    rw [List.length_append, List.length_singleton] at hlen
    obtain ⟨hentry, -⟩ := ih (by omega) hpre.of_concat b'
    have hrun : frameRun cfg f (telegram i0 (bits ++ [b'])) = placedBits cfg (bits ++ [b']) := by
      rw [frameRun_telegram_concat, frameApply_of_not_last 0 rfl
        (by rw [hentry]; exact hpre.not_refuses (by omega) i0)
        (by rw [hentry, placedBits_cursor_toNat cfg (by omega)]; omega), hentry, placedBits_concat]
      rfl
    have hcur : (placedBits cfg (bits ++ [b'])).cursor ≠ 0#6 := by
      intro h
      have := placedBits_cursor_toNat cfg (bits := bits ++ [b']) (by simp; omega)
      simp [h] at this
    rw [hrun]
    exact ⟨by simp [telegramEntry, telegramBus, hcur], by simp [resyncs, telegramBus]⟩

/-- Fed the bits of a telegram the framer has placed them, wherever the cursor is then. -/
theorem frameRun_telegram {bits : List Bool} (hpos : 1 ≤ bits.length) (hlen : bits.length ≤ cfg.nBits.toNat)
    (hpre : PreambleMet cfg bits) :
    ∃ cursor, frameRun cfg f (telegram i0 bits) = { placedBits cfg bits with cursor := cursor } := by
  have hn := (nBits_of_legal hl).2
  obtain rfl | ⟨bits, b, rfl⟩ := bits.eq_nil_or_concat'
  · simp at hpos
  · rw [List.length_append, List.length_singleton] at hlen
    obtain ⟨hentry, -⟩ := telegramEntry_frameRun hl hf i0 (by omega) hpre.of_concat b
    obtain ⟨cursor, hfrm, -⟩ := frameApply_places 0 rfl (by rw [hentry]; exact hpre.not_refuses (by omega) i0)
    refine ⟨cursor, ?_⟩
    rw [frameRun_telegram_concat, hfrm, hentry, placedBits_concat]
    rfl

/-- The last bit of a telegram completes it with all its bits placed, and the final check decides on them (R150). -/
theorem frameApply_telegram_last {bits : List Bool} {b : Bool} (hlen : bits.length + 1 = cfg.nBits.toNat)
    (hpre : PreambleMet cfg (bits ++ [b])) (ts : Timestamp) :
    frameApply cfg (frameRun cfg f (telegram i0 bits)) (telegramBus i0 bits.length b) ts =
      { frm := { placedBits cfg (bits ++ [b]) with cursor := 0 }
        msg := if ckFinal cfg (placedBits cfg (bits ++ [b])) then
            some ⟨sextAll cfg (placedBits cfg (bits ++ [b])).fld, ts⟩
          else none
        resync := false
        abort := false
        ckfail := !ckFinal cfg (placedBits cfg (bits ++ [b])) } := by
  have hn := (nBits_of_legal hl).2
  obtain ⟨hentry, hresync⟩ := telegramEntry_frameRun hl hf i0 (by omega) hpre.of_concat b
  rw [frameApply_of_last ts rfl (by rw [hentry]; exact hpre.not_refuses (by omega) i0)
    (by rw [hentry, placedBits_cursor_toNat cfg (by omega), hlen]), hentry, hresync, placedBits_concat]
  rfl

end

/-! ### The field registers -/

/-- A field has its own bit position for each offset it covers (R141). -/
theorem bitPos_inj {fc : FieldCfg} {c c' : Nat} (hc : covers fc c = true) (hc' : covers fc c' = true)
    (h : bitPos fc c = bitPos fc c') : c = c' := by
  rw [covers_iff] at hc hc'
  unfold bitPos at h
  split at h <;> omega

/-- The placed bits stand in the field registers, each at its position (R143). -/
theorem placedBits_fld {cfg : Cfg} (hl : legal cfg = true) {bits : List Bool} (hlen : bits.length ≤ 64) {i : Fin 8}
    {c : Nat} (hc : c < bits.length) (hcov : covers (cfg.fld.get i) c = true) :
    bits[c]? = some (((placedBits cfg bits).fld.get i).getLsbD (bitPos (cfg.fld.get i) c)) := by
  induction bits using List.reverseRecOn with
  | nil => simp at hc
  | append_singleton bits b ih =>
    rw [List.length_append, List.length_singleton] at hc hlen
    rw [placedBits_concat, getLsbD_framePlace_fld hl, placedBits_cursor_toNat cfg (by omega)]
    obtain hlt | rfl := Nat.lt_succ_iff_lt_or_eq.1 hc
    · rw [if_neg fun h => hlt.ne (bitPos_inj hcov h.1 h.2), List.getElem?_append_left hlt, ih (by omega) hlt]
    · rw [if_pos ⟨hcov, rfl⟩, List.getElem?_concat_length]

theorem placedBits_fieldsFit {cfg : Cfg} (hl : legal cfg = true) (bits : List Bool) :
    FieldsFit cfg (placedBits cfg bits).fld := by
  induction bits using List.reverseRecOn with
  | nil => exact FieldsFit.zero cfg
  | append_singleton bits b ih =>
    rw [placedBits_concat, framePlace_fld]
    exact ih.fieldWrite (fun i he => (range_of_legal hl i he).2.1) _ _

/-- Settles O38: the last bit of the telegram completes it, with every bit placed. -/
theorem wholeTelegramCarriesItsBits : Obligations.WholeTelegramCarriesItsBits := by
  intro cfg f bits i0 ts hl hf hlen hpre buses last hlast r
  obtain ⟨hn1, hn⟩ := nBits_of_legal hl
  obtain rfl | ⟨bits, b, rfl⟩ := bits.eq_nil_or_concat'
  · exact absurd hn1 (by simp [← hlen])
  have hbuses : buses = telegram i0 bits ++ [telegramBus i0 bits.length b] := telegram_concat i0 bits b
  obtain rfl : telegramBus i0 bits.length b = last := by simpa [hbuses] using hlast
  have hr := frameApply_telegram_last hl hf i0 (by simpa using hlen) hpre ts
  rw [← List.dropLast_concat (l₁ := telegram i0 bits), ← hbuses] at hr
  simp only [r, hr]
  refine ⟨rfl, trivial, trivial, fun i j he hj => ?bits, placedBits_fieldsFit hl _, ?verdict, fun hnone => ?noCheck⟩
  case bits =>
    have hrange := (range_of_legal hl i he).2.2
    have hbit := placedBits_fld hl (hlen.le.trans hn) (hlen ▸ by omega)
      ((covers_iff (cfg.fld.get i) ((cfg.fld.get i).off.toNat + j)).2 ⟨he, by omega, by omega⟩)
    rwa [bitPos, Nat.add_sub_cancel_left] at hbit
  case verdict =>
    cases ckFinal cfg (placedBits cfg (bits ++ [b]))
    · exact .inr ⟨rfl, rfl⟩
    · exact .inl ⟨rfl, rfl⟩
  case noCheck =>
    have hpass : ckFinal cfg (placedBits cfg (bits ++ [b])) = true := (ckFinal_iff ..).2 (by simp [hnone])
    rw [hpass]
    rfl

/-! ### The nibble checksum -/

/-- The nibble checksum has taken the bits in: the whole nibbles are subtracted from `ck_init`, the bits left over are
counted, and the last four stand in `ck_nib` (R145). -/
def NibblesTaken (cfg : Cfg) (f : FrmState) (bits : List Bool) : Prop :=
  (f.ckAcc.toNat + nibbleSum bits) % 16 = cfg.ckInit.toNat ∧ f.ckCnt.toNat = bits.length % 4 ∧
    f.ckNib.toNat = lastNibble bits

/-- A masked bit is taken in. -/
theorem NibblesTaken.update {cfg : Cfg} {f : FrmState} {bits : List Bool} (h : NibblesTaken cfg f bits)
    (hm : cfg.ckMask.getLsbD f.cursor.toNat = true) (b : Bool) :
    NibblesTaken cfg (nibbleUpdate cfg f b) (bits ++ [b]) := by
  obtain ⟨hacc, hcnt, hnib⟩ := h
  obtain ⟨hnib', hcnt', hfourth, hother⟩ := nibbleUpdate_of_masked hm b
  have hnib'' : (nibbleUpdate cfg f b).ckNib.toNat = lastNibble (bits ++ [b]) := by rw [hnib', lastNibble_snoc, hnib]
  refine ⟨?acc, by rw [hcnt', hcnt, List.length_append, List.length_singleton]; omega, hnib''⟩
  case acc =>
    rw [nibbleSum_snoc, ← hcnt, ← hnib'']
    by_cases h3 : f.ckCnt.toNat = 3
    · rw [if_pos h3, hfourth h3]
      omega
    · rw [if_neg h3, hother h3, Nat.add_zero, hacc]

/-- The bits of a telegram leave the nibble checksum with the masked ones taken in. -/
theorem placedBits_nibblesTaken {cfg : Cfg} (hs : cfg.ckScheme = 1#2) {bits : List Bool} (hlen : bits.length ≤ 64) :
    NibblesTaken cfg (placedBits cfg bits) (maskedBits cfg bits) := by
  induction bits using List.reverseRecOn with
  | nil => exact ⟨Nat.mod_eq_of_lt cfg.ckInit.isLt, rfl, rfl⟩
  | append_singleton bits b ih =>
    rw [List.length_append, List.length_singleton] at hlen
    have hcur := placedBits_cursor_toNat cfg (bits := bits) (by omega)
    have hwritten : NibblesTaken cfg { placedBits cfg bits with
        fld := fieldWrite cfg (placedBits cfg bits).fld (placedBits cfg bits).cursor.toNat b } (maskedBits cfg bits) :=
      ih (by omega)
    rw [placedBits_concat, maskedBits_snoc, framePlace, ckUpdate, if_pos hs]
    cases hm : cfg.ckMask.getLsbD bits.length
    case false =>
      rw [nibbleUpdate_of_unmasked (by rw [hcur, hm]), if_neg nofun, List.append_nil]
      exact hwritten
    case true =>
      rw [if_pos rfl]
      exact hwritten.update (by rw [hcur, hm]) b

/-- Settles O41: the run ends with the bits placed, which is an induction on them. -/
theorem nibbleChecksumSubtractsTheNibbles : Obligations.NibbleChecksumSubtractsTheNibbles := by
  intro cfg f bits i0 hl hs hf hpos hlen hpre g
  obtain ⟨cursor, hg⟩ : ∃ cursor, g = { placedBits cfg bits with cursor := cursor } :=
    frameRun_telegram hl hf i0 hpos hlen hpre
  rw [hg]
  exact placedBits_nibblesTaken hs (hlen.trans (nBits_of_legal hl).2)

end Sys2Proof.Machine
end

section
/-! PROOFS. The duplicate suppressor: what each policy decides on one message, and on a run of repeats
(spec/44_duplicate_suppressor.md R170 to R177, R181, R182). -/

namespace Sys2Proof.Machine

/-! ### When a message is the same as the previous one -/

/-- The time difference as R173 writes it. -/
theorem delta_eq_ite (dd : DedupState) (msg : Message) :
    delta dd msg = if msg.ts.toNat < dd.prevTs.toNat then 0 else msg.ts.toNat - dd.prevTs.toNat := by
  rw [delta_eq]
  split <;> omega

/-- A message is the same as the previous one when there is one, the compared fields are equal and less than T has
passed (R171, R172, R177). -/
theorem sameAsPrevious_iff_identical (cfg : Cfg) (dd : DedupState) (msg : Message) :
    sameAsPrevious cfg dd msg = true ↔
      dd.prevValid = true ∧ Identical cfg msg.out dd.prevFld ∧ delta dd msg < cfg.ddInterval.toNat := by
  rw [sameAsPrevious_iff, identical_iff, delta_eq]

/-- A message with no previous one, or with a field that differs from it, is not the same (R171, R177). -/
theorem sameAsPrevious_eq_false {cfg : Cfg} {dd : DedupState} {msg : Message}
    (h : dd.prevValid = false ∨ ¬ Identical cfg msg.out dd.prevFld) : sameAsPrevious cfg dd msg = false := by
  rw [← Bool.not_eq_true, sameAsPrevious_iff_identical]
  rintro ⟨hvalid, hid, -⟩
  rcases h with h | h
  · simp [h] at hvalid
  · exact h hid

theorem delta_of_backwards {dd : DedupState} {msg : Message} (h : msg.ts.toNat < dd.prevTs.toNat) :
    delta dd msg = 0 := by
  rw [delta_eq_ite, if_pos h]

/-- With an interval above 0, a field-identical message from the past is the same as the previous one (R173). -/
theorem sameAsPrevious_of_backwards {cfg : Cfg} {dd : DedupState} {msg : Message} (hvalid : dd.prevValid = true)
    (hback : msg.ts.toNat < dd.prevTs.toNat) (hid : Identical cfg msg.out dd.prevFld) (hT : cfg.ddInterval ≠ 0) :
    sameAsPrevious cfg dd msg = true := by
  rw [sameAsPrevious_iff_identical, delta_of_backwards hback]
  exact ⟨hvalid, hid, Nat.pos_of_ne_zero fun h => hT (BitVec.eq_of_toNat_eq h)⟩

/-! ### The three cases of the lock policy, an equation each -/

section
variable {cfg : Cfg} {dd : DedupState} {msg : Message}

theorem dedupLock_of_not_same (h : sameAsPrevious cfg dd msg = false) :
    dedupLock cfg dd msg = { dd := { dd.remember msg with lock := false }, emit := false } := by
  simp [dedupLock, h]

theorem dedupLock_of_same_unlocked (h : sameAsPrevious cfg dd msg = true) (hl : dd.lock = false) :
    dedupLock cfg dd msg = { dd := { dd.remember msg with lock := true }, emit := true } := by
  simp [dedupLock, h, hl]

theorem dedupLock_of_same_locked (h : sameAsPrevious cfg dd msg = true) (hl : dd.lock = true) :
    dedupLock cfg dd msg = { dd := dd.remember msg, emit := false } := by
  simp [dedupLock, h, hl]

/-- On the same message the lock policy emits exactly if the lock is clear, and leaves the lock set. -/
theorem dedupLock_of_same (h : sameAsPrevious cfg dd msg = true) :
    (dedupLock cfg dd msg).emit = !dd.lock ∧ (dedupLock cfg dd msg).dd.lock = true := by
  cases hl : dd.lock
  · rw [dedupLock_of_same_unlocked h hl]
    exact ⟨rfl, rfl⟩
  · rw [dedupLock_of_same_locked h hl]
    exact ⟨rfl, hl⟩

end

/-! ### What the suppressor remembers -/

/-- The suppressor holds the message as the previous one (R176). -/
structure DedupState.Holds (dd : DedupState) (msg : Message) : Prop where
  valid : dd.prevValid = true
  fld : dd.prevFld = msg.out
  ts : dd.prevTs = msg.ts

/-- A suppressor that holds a message has nothing else in its state but the lock. -/
theorem DedupState.Holds.eq {dd : DedupState} {msg : Message} (h : dd.Holds msg) :
    dd = { prevValid := true, prevFld := msg.out, prevTs := msg.ts, lock := dd.lock } := by
  rw [← h.valid, ← h.fld, ← h.ts]

theorem dedupSuppress_holds (cfg : Cfg) (dd : DedupState) (msg : Message) :
    (dedupSuppress cfg dd msg).dd.Holds msg :=
  ⟨rfl, rfl, rfl⟩

theorem dedupLock_holds (cfg : Cfg) (dd : DedupState) (msg : Message) : (dedupLock cfg dd msg).dd.Holds msg :=
  ⟨dedupLock_prevValid .., dedupLock_prevFld .., dedupLock_prevTs ..⟩

/-! ### The two unit operations -/

/-- A claim about DEDUP_SUPPRESS follows from the claim about the suppressor of a channel. -/
theorem UnitOperation.of_dedupSuppress {P : State → Channel → Channel → Prop}
    (hP : ∀ s c, P s c (c.dedupStage dedupSuppress)) :
    UnitOperation .dedupSuppress (fun cfg => cfg.ddPolicy = false) P :=
  UnitOperation.of_channel selSuppress (fun _ => Channel.dedupStage dedupSuppress) (fun _ => rfl)
    (fun _ => by simp [selSuppress]) fun s c _ => hP s c

/-- A claim about DEDUP_LOCK follows from the claim about the suppressor of a channel. -/
theorem UnitOperation.of_dedupLock {P : State → Channel → Channel → Prop}
    (hP : ∀ s c, P s c (c.dedupStage dedupLock)) :
    UnitOperation .dedupLock (fun cfg => cfg.ddPolicy = true) P :=
  UnitOperation.of_channel selLock (fun _ => Channel.dedupStage dedupLock) (fun _ => rfl) (fun _ => Iff.rfl)
    fun s c _ => hP s c

/-- Settles O44: the decision is that the message is not the same, and the rest is what the suppressor remembers. -/
theorem suppressPolicyDecides : Obligations.SuppressPolicyDecides := by
  refine UnitOperation.of_dedupSuppress fun _ c => ⟨c.dedupStage_none _, fun msg hmsg => ?_⟩
  rw [c.dedupStage_some _ msg hmsg, ← delta_eq_ite, ← sameAsPrevious_iff_identical]
  exact ⟨!sameAsPrevious c.cfg c.dd msg, by simp, rfl⟩

/-- Settles O45: one equation of the lock policy for each of its three cases. -/
theorem lockPolicyDecides : Obligations.LockPolicyDecides := by
  refine UnitOperation.of_dedupLock fun _ c => ⟨c.dedupStage_none _, fun msg hmsg => ?_⟩
  rw [c.dedupStage_some _ msg hmsg, ← delta_eq_ite, ← sameAsPrevious_iff_identical]
  refine ⟨(dedupLock c.cfg c.dd msg).emit, (dedupLock c.cfg c.dd msg).dd.lock, fun hsame => ?differs,
    fun hsame hl => ?unlocked, fun hsame hl => ?locked, ?frame⟩
  case differs => simp [dedupLock_of_not_same (Bool.eq_false_of_not_eq_true hsame)]
  case unlocked => simp [dedupLock_of_same_unlocked hsame hl]
  case locked => simp [dedupLock_of_same_locked hsame hl, hl]
  case frame =>
    rw [(dedupLock_holds c.cfg c.dd msg).eq]
    rfl

/-- Under every policy `anom` is set by a message from before the previous one, and left by any other (R173). -/
theorem Channel.dedupStage_anom {policy : Cfg → DedupState → Message → DedupResult} {c : Channel} {msg : Message}
    (hmsg : c.nets.msg = some msg) :
    (c.dd.prevValid = true → msg.ts.toNat < c.dd.prevTs.toNat → (c.dedupStage policy).anom = true) ∧
      (c.dd.prevValid = false ∨ c.dd.prevTs.toNat ≤ msg.ts.toNat → (c.dedupStage policy).anom = c.anom) := by
  rw [c.dedupStage_some _ msg hmsg]
  refine ⟨fun hvalid hback => by simp [goesBack, hvalid, hback], ?_⟩
  rintro (hfirst | hts)
  · simp [goesBack, hfirst]
  · simp [goesBack_eq_false hts]

/-- Settles O48: a message from the past is the same as the previous one, and each policy decides on it as such. -/
theorem backwardsTimestampCountsAsNoTime : Obligations.BackwardsTimestampCountsAsNoTime := by
  refine ⟨fun _ _ => delta_of_backwards, UnitOperation.of_dedupSuppress fun _ c msg hmsg => ?suppress,
    UnitOperation.of_dedupLock fun _ c msg hmsg => ?lock⟩
  case suppress =>
    obtain ⟨hset, hleft⟩ := Channel.dedupStage_anom (policy := dedupSuppress) hmsg
    refine ⟨fun hvalid hback => ⟨hset hvalid hback, fun hid hT => ?_⟩, hleft⟩
    simp [c.dedupStage_some _ msg hmsg, sameAsPrevious_of_backwards hvalid hback hid hT]
  case lock =>
    obtain ⟨hset, hleft⟩ := Channel.dedupStage_anom (policy := dedupLock) hmsg
    refine ⟨fun hvalid hback => ⟨hset hvalid hback, fun hid hT => ?_⟩, hleft⟩
    obtain ⟨hemit, hlock⟩ := dedupLock_of_same (sameAsPrevious_of_backwards hvalid hback hid hT)
    simp [c.dedupStage_some _ msg hmsg, hemit, hlock]

/-! ### A run of repeats -/

/-- A repeat within the interval of the message held is the same as the previous one (R172). -/
theorem DedupState.Holds.same {cfg : Cfg} {dd : DedupState} {m n : Message} (h : dd.Holds m)
    (hid : Identical cfg n.out m.out) (hts : n.ts.toNat - m.ts.toNat < cfg.ddInterval.toNat) :
    sameAsPrevious cfg dd n = true := by
  rw [sameAsPrevious_iff_identical, delta_eq, h.fld, h.ts]
  exact ⟨h.valid, hid, hts⟩

/-- A policy that, in the states of `Q`, holds the same message without emitting it and stays in `Q`, emits nothing
of a run of repeats: the interval slides with the message held (R182). -/
theorem emissions_repeats {policy : Cfg → DedupState → Message → DedupResult} {cfg : Cfg} {Q : DedupState → Prop}
    (hholds : ∀ dd n, (policy cfg dd n).dd.Holds n)
    (hsame : ∀ dd n, Q dd → sameAsPrevious cfg dd n = true → (policy cfg dd n).emit = false ∧ Q (policy cfg dd n).dd)
    {m : Message} {ms : List Message} (hrep : RepeatsOf cfg m ms) {dd : DedupState} (hm : dd.Holds m) (hQ : Q dd) :
    emissions policy cfg dd ms = List.replicate ms.length false := by
  induction ms generalizing m dd with
  | nil => rfl
  | cons n rest ih =>
    obtain ⟨hid, hts, hrest⟩ := hrep
    obtain ⟨hemit, hQ'⟩ := hsame dd n hQ (hm.same hid hts)
    rw [emissions, hemit, ih hrest (hholds dd n) hQ', List.length_cons, List.replicate_succ]

/-- Suppress-recent-identical emits nothing of a run that repeats the message it holds. -/
theorem emissions_dedupSuppress_repeats {cfg : Cfg} {dd : DedupState} {m : Message} {ms : List Message}
    (hm : dd.Holds m) (hrep : RepeatsOf cfg m ms) :
    emissions dedupSuppress cfg dd ms = List.replicate ms.length false :=
  emissions_repeats (Q := fun _ => True) (dedupSuppress_holds cfg) (fun dd n _ h => by simp [h]) hrep hm trivial

/-- The lock policy, locked, emits nothing of a run that repeats the message it holds. -/
theorem emissions_dedupLock_repeats {cfg : Cfg} {dd : DedupState} {m : Message} {ms : List Message}
    (hl : dd.lock = true) (hm : dd.Holds m) (hrep : RepeatsOf cfg m ms) :
    emissions dedupLock cfg dd ms = List.replicate ms.length false :=
  emissions_repeats (Q := fun dd => dd.lock = true) (dedupLock_holds cfg)
    (fun dd n hl h => by simp [dedupLock_of_same h, hl]) hrep hm hl

/-- The lock policy emits the repeat of a message that was not the same as the one before it, and locks (R175). -/
theorem dedupLock_repeat {cfg : Cfg} {dd : DedupState} {m n : Message} (hfirst : sameAsPrevious cfg dd m = false)
    (hid : Identical cfg n.out m.out) (hts : n.ts.toNat - m.ts.toNat < cfg.ddInterval.toNat) :
    (dedupLock cfg dd m).emit = false ∧ (dedupLock cfg (dedupLock cfg dd m).dd n).emit = true ∧
      (dedupLock cfg (dedupLock cfg dd m).dd n).dd.lock = true := by
  have hunlocked : (dedupLock cfg dd m).dd.lock = false := by rw [dedupLock_of_not_same hfirst]
  obtain ⟨hemit, hlock⟩ := dedupLock_of_same ((dedupLock_holds cfg dd m).same hid hts)
  exact ⟨by rw [dedupLock_of_not_same hfirst], by rw [hemit, hunlocked]; rfl, hlock⟩

/-- Settles O46: the first message is not the same as a previous one, and every later one repeats the message held. -/
theorem repeatsWithinTheIntervalEmitOnce : Obligations.RepeatsWithinTheIntervalEmitOnce := by
  intro cfg dd m ms hfirst hrep
  have hm : sameAsPrevious cfg dd m = false := sameAsPrevious_first cfg dd m hfirst
  constructor
  · rw [emissions, emissions_dedupSuppress_repeats (dedupSuppress_holds cfg dd m) hrep, dedupSuppress_emit, hm]
    rfl
  · cases ms with
    | nil => simp [emissions, dedupLock_of_not_same hm]
    | cons n rest =>
      obtain ⟨hid, hts, hrest⟩ := hrep
      obtain ⟨hsilent, hemit, hlock⟩ := dedupLock_repeat hm hid hts
      rw [emissions, emissions, hsilent, hemit, emissions_dedupLock_repeats hlock (dedupLock_holds ..) hrest]

/-- Settles O47: the first A is not the same as a previous message, the second is its repeat, and B is not the same as
the second A, which clears the lock. -/
theorem lockTripleEmitsOnTheSecond : Obligations.LockTripleEmitsOnTheSecond := by
  intro cfg dd a1 a2 b hstart ⟨hid, hts, _⟩ hdiff
  obtain ⟨hsilent, hemit, -⟩ := dedupLock_repeat (sameAsPrevious_eq_false hstart) hid hts
  have hb : sameAsPrevious cfg (dedupLock cfg (dedupLock cfg dd a1).dd a2).dd b = false :=
    sameAsPrevious_eq_false (.inr (by rwa [dedupLock_prevFld]))
  simp [emissions, dedupRun, hsilent, hemit, dedupLock_of_not_same hb]

end Sys2Proof.Machine
end

section
/-! PROOFS. NOP, the reserved commands and idle cycles: a channel goes quiet and keeps everything else
(spec/45_commands.md R185, R187, spec/60_exceptions.md R211, spec/70_reset_and_hazards.md R226). -/

namespace Sys2Proof.Machine

/-! ### NOP and the reserved commands -/

theorem exec_nop (data : Word) (s : State) : exec (.nop data) s = .next (s.onEach Channel.quiet) := rfl

/-- The reserved commands are NOP with the command-error flag raised. -/
theorem exec_reserved {i : Instr} (hi : i.isReserved = true) (s : State) :
    exec i s = .next (s.onEach Channel.quiet).raiseCmdErr := by
  have heffect : effectOf i s.sampleW s.tsNow = Channel.quiet := by
    cases i with
    | rsv2 _ | rsv3 _ => rfl
    | _ => cases hi
  rw [exec_eq, if_pos hi, heffect]

/-- Settles O10: NOP makes every channel quiet, whatever its data and `ts_now` are. -/
theorem nopClearsStrobesAndHoldsTheRest : Obligations.NopClearsStrobesAndHoldsTheRest :=
  fun data s => ⟨s.onEach Channel.quiet, exec_nop data s, rfl, fun data' ts => exec_nop data' { s with tsNow := ts }⟩

/-- Settles O11: both reserved commands raise the flag on what NOP leaves, and their data are not read. -/
theorem reservedCommandsActAsNopAndSetCmdErr : Obligations.ReservedCommandsActAsNopAndSetCmdErr :=
  fun data s => ⟨s.onEach Channel.quiet, exec_nop data s, exec_reserved rfl s, exec_reserved rfl s,
    fun _ => ⟨rfl, rfl⟩⟩

/-! ### A NOP before a SAMPLE -/

@[simp] theorem Channel.quiet_quiet (c : Channel) : c.quiet.quiet = c.quiet := rfl

/-- A sample overwrites every output that a quiet cycle clears. -/
theorem Channel.sample_quiet (c : Channel) (d : Word) (ts : Timestamp) : c.quiet.sample d ts = c.sample d ts := by
  rcases c.sample_cases d ts with ⟨ha, e⟩ | ⟨ha, hm⟩ | ⟨ha, msg, hm⟩
  · rw [e, c.quiet.sample_inactive d ts ha, c.quiet_quiet]
  · rw [c.sample_none d ts ha hm, c.quiet.sample_none d ts ha hm]
    rfl
  · rw [c.sample_some d ts msg ha hm, c.quiet.sample_some d ts msg ha hm]
    rfl

/-- Settles O19: in every channel the sample is the same after the quiet cycle as without it. -/
theorem nopBetweenSamplesIsInvisible : Obligations.NopBetweenSamplesIsInvisible := by
  intro data data' s
  refine ⟨_, exec_nop data s, ?_⟩
  rw [exec_of_not_reserved rfl, exec_of_not_reserved rfl, State.onEach_onEach]
  exact congrArg (fun f => Host.Outcome.next (s.onEach f)) (funext fun c => c.sample_quiet _ _)

/-! ### Idle cycles -/

/-- A cycle with nothing presented makes every channel quiet. -/
theorem step_of_nothing_pending {s : State} (hp : s.pending = []) : step s = .next (s.onEach Channel.quiet) :=
  (stepRunsTheCommandPresented.2 s hp).trans (exec_nop 0 s)

/-- One idle cycle or many leave the same block. -/
theorem run_succ_of_nothing_pending (n : Nat) {s : State} (hp : s.pending = []) :
    Host.Core.run core (n + 1) s = .next (s.onEach Channel.quiet) := by
  induction n generalizing s with
  | zero => exact run_succ_of_step (step_of_nothing_pending hp) 0
  | succ n ih =>
    rw [run_succ_of_step (step_of_nothing_pending hp), ih (s := s.onEach Channel.quiet) hp, State.onEach_onEach]
    rfl

/-- Settles O20: no cycle leaves the block as it is, and every other number of idle cycles makes its channels quiet. -/
theorem stateIsKeptAcrossIdleCycles : Obligations.StateIsKeptAcrossIdleCycles := by
  intro k s hp
  cases k with
  | zero => exact ⟨s, rfl, rfl, fun j c hc => ⟨c, hc, rfl, rfl, rfl, rfl, rfl, rfl, rfl, rfl, rfl, rfl, rfl⟩⟩
  | succ n =>
    exact ⟨_, run_succ_of_nothing_pending n hp, rfl, fun j c hc =>
      ⟨c.quiet, by simp [hc], rfl, rfl, rfl, rfl, rfl, rfl, rfl, rfl, rfl, rfl, rfl⟩⟩

end Sys2Proof.Machine
end

section
/-! PROOFS. Inert channels: disabled, or enabled with an illegal configuration (spec/45_commands.md R188, R191). -/

namespace Sys2Proof.Machine

/-- In a channel that is not active a command is a quiet cycle, and a unit operation nothing. -/
theorem effectOf_inactive (i : Instr) (w : Nat) (ts : Timestamp) {c : Channel} (ha : c.active = false) :
    effectOf i w ts c = if i.isCommand then c.quiet else c := by
  cases i with
  | sample data => exact c.sample_inactive _ ts ha
  | nop _ | rsv2 _ | rsv3 _ => rfl
  | _ => simp [effectOf, Instr.isCommand, ha]

/-- An instruction keeps the unit state of a channel that is not active. -/
theorem effectOf_units_of_inactive (i : Instr) (w : Nat) (ts : Timestamp) {c : Channel} (ha : c.active = false) :
    (effectOf i w ts c).dec = c.dec ∧ (effectOf i w ts c).frm = c.frm ∧ (effectOf i w ts c).dd = c.dd ∧
      (effectOf i w ts c).anom = c.anom := by
  rw [effectOf_inactive i w ts ha]
  split <;> exact ⟨rfl, rfl, rfl, rfl⟩

/-- What an instruction leaves in the other channels does not depend on channel `k`. -/
theorem exec_set_getElem? {i : Instr} {s t t2 : State} {k : Nat} {d : Channel} (ht : exec i s = .next t)
    (ht2 : exec i { s with chans := s.chans.set k d } = .next t2) {j : Nat} (hj : j ≠ k) :
    t2.chans[j]? = t.chans[j]? := by
  obtain ⟨u2, u, hu2, hu, heq⟩ := channelsDoNotReadEachOther i { s with chans := s.chans.set k d } s j rfl rfl
    (List.getElem?_set_ne hj.symm)
  obtain rfl := Host.Outcome.next.inj (hu.symm.trans ht)
  obtain rfl := Host.Outcome.next.inj (hu2.symm.trans ht2)
  exact heq

/-- Settles O14: an inert channel is not active, so a command makes it quiet and a unit operation leaves it alone. -/
theorem inertChannelsKeepTheirState : Obligations.InertChannelsKeepTheirState := by
  intro i s k c hc hinert
  have ha : c.active = false := c.active_eq_false.2 hinert
  obtain ⟨t, ht, hchans⟩ := exec_channel i s
  have hcfg := effectOf_cfg i s.sampleW s.tsNow c
  obtain ⟨hdec, hfrm, hdd, hanom⟩ := effectOf_units_of_inactive i s.sampleW s.tsNow ha
  refine ⟨t, effectOf i s.sampleW s.tsNow c, ht, by rw [hchans, hc]; rfl, hcfg, hdec, hfrm, hdd, hanom, ?_, ?_, ?_,
    fun d t2 ht2 j hj => exec_set_getElem? ht ht2 hj⟩
  · intro hi
    rw [effectOf_inactive i _ _ ha, if_pos hi]
    exact ⟨rfl, rfl, rfl, rfl, rfl, rfl, rfl⟩
  · intro hen
    simp [Channel.oCfgErr, hcfg, hen]
  · intro hen
    have hillegal : legal c.cfg = false := hinert.resolve_left (by simp [hen])
    rw [Channel.oCfgErr_congr hcfg, Channel.oCfgErr_of_illegal hillegal, hen]

end Sys2Proof.Machine
end

section
/-! PROOFS. LEGAL(cfg), condition by condition (spec/45_commands.md R190). -/

namespace Sys2Proof

theorem Eight.toList_eq_ofFn {α : Type} (v : Eight α) : v.toList = List.ofFn v.get := by
  simp [Eight.toList, Eight.get, List.ofFn_succ]

end Sys2Proof

namespace Sys2Proof.Machine

/-! ### The checks that LEGAL is made of -/

/-- Offset c is in the range of field f, enabled or not (spec/43_framer.md R139). -/
def InRange (f : FieldCfg) (c : Nat) : Prop := f.off.toNat ≤ c ∧ c < f.off.toNat + f.wid.toNat

/-- Two fields, as far as both are enabled, have no offset in common (L4). -/
def FieldsApart (f g : FieldCfg) : Prop := f.en = true → g.en = true → ∀ c, ¬ (InRange f c ∧ InRange g c)

theorem FieldsApart.symm {f g : FieldCfg} (h : FieldsApart f g) : FieldsApart g f :=
  fun hg hf c hc => h hf hg c hc.symm

/-- Two ranges have no offset in common when the greater of their two first offsets is not in both. -/
theorem rangesDisjoint_iff (f g : FieldCfg) :
    rangesDisjoint f g = true ↔ ∀ c, ¬ (InRange f c ∧ InRange g c) := by
  have hzero (w : BitVec 6) : w = 0#6 ↔ w.toNat = 0 := BitVec.toNat_inj.symm
  simp only [rangesDisjoint, Bool.or_eq_true, decide_eq_true_eq, hzero, InRange]
  constructor
  · intro h c
    omega
  · intro h
    have hmax := h (max f.off.toNat g.off.toNat)
    omega

/-- The list check of L4 holds when every two of its fields are apart. -/
theorem pairwiseDisjoint_iff (fs : List FieldCfg) : pairwiseDisjoint fs = true ↔ fs.Pairwise FieldsApart := by
  induction fs with
  | nil => simp [pairwiseDisjoint]
  | cons f rest ih =>
    have hpair (g : FieldCfg) : (!(f.en && g.en) || rangesDisjoint f g) = true ↔ FieldsApart f g := by
      rw [FieldsApart, ← rangesDisjoint_iff]
      cases f.en <;> cases g.en <;> simp
    simp only [pairwiseDisjoint, Bool.and_eq_true, List.all_eq_true, hpair, ih, List.pairwise_cons]

/-- A check of the offsets below 64 that a mask selects is one of every offset it selects. -/
theorem all_range_mask_iff (mask : BitVec 64) (p : Nat → Bool) :
    ((List.range 64).all fun c => !mask.getLsbD c || p c) = true ↔ ∀ c, mask.getLsbD c = true → p c = true := by
  simp only [List.all_eq_true, List.mem_range, Bool.or_eq_true, Bool.not_eq_true', ← Bool.not_eq_true, ← imp_iff_not_or]
  exact ⟨fun h c hc => h c (BitVec.lt_of_getLsbD hc) hc, fun h c _ => h c⟩

/-! ### The conditions -/

section
variable (cfg : Cfg)

theorem legalFamily_iff : legalFamily cfg = true ↔ cfg.family = 0#2 ∨ cfg.family = 1#2 := by
  simp [legalFamily]

theorem legalLength_iff : legalLength cfg = true ↔ 1 ≤ cfg.nBits.toNat ∧ cfg.nBits.toNat ≤ 64 := by
  rw [legalLength, Bool.and_eq_true, decide_eq_true_eq, decide_eq_true_eq, Config.nMax]

theorem legalRanges_iff : legalRanges cfg = true ↔ ∀ i, (cfg.fld.get i).en = true →
    1 ≤ (cfg.fld.get i).wid.toNat ∧ (cfg.fld.get i).wid.toNat ≤ 32 ∧
      (cfg.fld.get i).off.toNat + (cfg.fld.get i).wid.toNat ≤ cfg.nBits.toNat := by
  rw [legalRanges, Eight.all_toList]
  refine forall_congr' fun i => ?_
  cases (cfg.fld.get i).en <;> simp [and_assoc]

theorem legalDisjoint_iff : legalDisjoint cfg = true ↔
    ∀ i j, i ≠ j → FieldsApart (cfg.fld.get i) (cfg.fld.get j) := by
  rw [legalDisjoint, pairwiseDisjoint_iff, Eight.toList_eq_ofFn, List.pairwise_ofFn]
  constructor
  · intro h i j hij
    rcases lt_or_gt_of_ne hij with hlt | hgt
    · exact h hlt
    · exact (h hgt).symm
  · exact fun h i j hlt => h i j hlt.ne

theorem legalExtension_iff : legalExtension cfg = true ↔ ∀ i, (cfg.fld.get i).en = true →
    (cfg.fld.get i).sext = true →
      (cfg.fld.get i).wid.toNat ≤ (cfg.fld.get i).sxW.toNat ∧ (cfg.fld.get i).sxW.toNat ≤ 32 := by
  rw [legalExtension, Eight.all_toList]
  refine forall_congr' fun i => ?_
  cases (cfg.fld.get i).en <;> cases (cfg.fld.get i).sext <;> simp

theorem legalPreamble_iff : legalPreamble cfg = true ↔ ∀ c, cfg.preMask.getLsbD c = true →
    c < cfg.nBits.toNat ∧ ∀ i, ¬ ((cfg.fld.get i).en = true ∧ InRange (cfg.fld.get i) c) := by
  rw [legalPreamble, all_range_mask_iff]
  refine forall₂_congr fun c _ => ?_
  simp only [Bool.and_eq_true, decide_eq_true_eq, Eight.all_toList, Bool.not_eq_true', ← Bool.not_eq_true, covers_iff,
    InRange]

theorem legalScheme_iff : legalScheme cfg = true ↔ cfg.ckScheme ≠ 3#2 := by
  simp [legalScheme]

theorem legalCkMask_iff : legalCkMask cfg = true ↔ ∀ c, cfg.ckMask.getLsbD c = true → c < cfg.nBits.toNat := by
  simp only [legalCkMask, all_range_mask_iff, decide_eq_true_eq]

theorem legalCkField_iff : legalCkField cfg = true ↔
    (cfg.ckScheme = 1#2 → (cfg.fld.get cfg.ckField.toFin).en = true) := by
  by_cases h : cfg.ckScheme = 1#2 <;> simp [legalCkField, h]

end

/-- Settles O21: each of the nine checks says its condition. -/
theorem legalIsTheNineConditions : Obligations.LegalIsTheNineConditions := by
  intro cfg
  rw [legal_parts, legalFamily_iff, legalLength_iff, legalRanges_iff, legalDisjoint_iff, legalExtension_iff,
    legalPreamble_iff, legalScheme_iff, legalCkMask_iff, legalCkField_iff]
  simp only [FieldsApart, InRange, and_assoc]

end Sys2Proof.Machine
end

section
/-! PROOFS. What stops a step: a `cfg` that the host changes while `rst = 0`, and nothing inside the block
(spec/60_exceptions.md R200, spec/70_reset_and_hazards.md R223). -/

namespace Sys2Proof.Machine

/-- Every instruction completes in every state. -/
theorem exec_completes (i : Instr) (s : State) : ∃ t, exec i s = .next t := ⟨_, exec_eq i s⟩

/-- Driven records that change what the ports carry hold one that differs from its channel's configuration. -/
theorem exists_differing_record {l : List Cfg} {cs : List Channel}
    (h : (driveCfg l cs).map Channel.cfg ≠ cs.map Channel.cfg) :
    ∃ (k : Nat) (ch : Channel) (cfg : Cfg), cs[k]? = some ch ∧ l[k]? = some cfg ∧ cfg ≠ ch.cfg := by
  fun_induction driveCfg l cs with
  | case1 cfg l c cs ih =>
    by_cases hcfg : cfg = c.cfg
    · obtain ⟨k, hk⟩ := ih (by simpa [hcfg] using h)
      exact ⟨k + 1, hk⟩
    · exact ⟨0, c, cfg, rfl, rfl, hcfg⟩
  | case2 | case3 => exact absurd rfl h

/-- A change of `cfg` stands in a presented cycle without `rst` that drives the bundles. -/
theorem presented_of_cfgChanged {s : State} (h : s.cfgChanged = true) :
    ∃ (c : HostCycle) (rest : List HostCycle) (l : List Cfg), s.pending = c :: rest ∧ c.rst = false ∧
      c.cfg = some l ∧ (driveCfg l s.chans).map Channel.cfg ≠ s.chans.map Channel.cfg := by
  cases hp : s.pending with
  | nil => simp [State.cfgChanged, State.cycle, State.withCfg, hp] at h
  | cons c rest =>
    cases hcfg : c.cfg with
    | none => simp [State.cfgChanged, State.cycle, State.withCfg, hp, hcfg] at h
    | some l =>
      obtain ⟨hr, hne⟩ : c.rst = false ∧ (driveCfg l s.chans).map Channel.cfg ≠ s.chans.map Channel.cfg := by
        simpa [State.cfgChanged, State.cycle, State.withCfg, hp, hcfg] using h
      exact ⟨c, rest, l, rfl, hr, hcfg, hne⟩

/-- Settles O9: a step that is not refused is a reset or an instruction, and a refused one has a differing record. -/
theorem nothingStopsTheBlock : Obligations.NothingStopsTheBlock := by
  refine ⟨exec_completes, fun s => ?_⟩
  rcases step_cases s with ⟨hchanged, e⟩ | ⟨-, -, e⟩ | ⟨-, -, e⟩
  · obtain ⟨c, rest, l, hp, hr, hcfg, hne⟩ := presented_of_cfgChanged hchanged
    exact .inr ⟨e, c, rest, l, hp, hr, hcfg, exists_differing_record hne⟩
  · exact .inl ⟨_, e⟩
  · exact .inl (e ▸ exec_completes _ _)

end Sys2Proof.Machine
end

section
/-! PROOFS. A cycle that drives the configuration bundles, one record to each channel: refused when it changes them
with `rst = 0`, run when it does not, taken when it is a reset (spec/70_reset_and_hazards.md R220, R223). -/

namespace Sys2Proof.Machine

/-- Driven with one record to each channel, the channels carry these records. -/
theorem map_cfg_driveCfg {l : List Cfg} {cs : List Channel} (hlen : l.length = cs.length) :
    (driveCfg l cs).map Channel.cfg = l := by
  induction l, cs using driveCfg.induct with
  | case1 cfg l c cs ih => simpa [driveCfg] using ih (by simpa using hlen)
  | case2 cs => simpa [driveCfg] using hlen.symm
  | case3 cfg l => simp at hlen

/-- Reset channels are determined by the records they carry (R53). -/
theorem map_doReset_eq (cs : List Channel) :
    cs.map Channel.doReset = (cs.map Channel.cfg).map Channel.initial :=
  List.map_map.symm

section
variable {s : State} {c : HostCycle} {rest : List HostCycle} {l : List Cfg}

/-- A presented cycle that drives the bundles drives the ports, nothing else. -/
theorem beginCycle_of_driven (hp : s.pending = c :: rest) (hcfg : c.cfg = some l) :
    s.beginCycle = { s with chans := driveCfg l s.chans, tsNow := c.ts, pending := rest } := by
  simp [State.beginCycle, State.withCfg, State.accept, State.cycle, hp, hcfg]

/-- The host changes `cfg` exactly when, outside reset, it drives other records than the channels have (R223). -/
theorem cfgChanged_iff_of_driven (hp : s.pending = c :: rest) (hcfg : c.cfg = some l)
    (hlen : l.length = s.chans.length) :
    s.cfgChanged = true ↔ c.rst = false ∧ l ≠ s.chans.map Channel.cfg := by
  simp [State.cfgChanged, State.cycle, State.withCfg, hp, hcfg, map_cfg_driveCfg hlen]

/-- A cycle outside reset that drives the records already there begins with the channels as they are. -/
theorem beginCycle_of_same_records (hp : s.pending = c :: rest) (hcfg : c.cfg = some l) (hr : c.rst = false)
    (hsame : s.cfgChanged = false) : s.beginCycle = { s with tsNow := c.ts, pending := rest } := by
  have hchans : driveCfg l s.chans = s.chans := by
    simpa [beginCycle_of_driven hp hcfg] using beginCycle_chans s hsame (by simpa [State.cycle, hp] using hr)
  rw [beginCycle_of_driven hp hcfg, hchans]

end

/-- Settles O8: the driven records are those in force after the drive, so comparing them with the records already
there decides whether `cfg` changes. -/
theorem configurationChangesOnlyUnderReset : Obligations.ConfigurationChangesOnlyUnderReset := by
  intro s c rest l hp hcfg hlen
  have hchange := cfgChanged_iff_of_driven hp hcfg hlen
  have hcycle : s.cycle = c := by simp [State.cycle, hp]
  refine ⟨fun hr hne => ?_, fun hr heq => ?_, fun hr => ?_⟩
  · simp [step, hchange.2 ⟨hr, hne⟩]
  · have hsame : s.cfgChanged = false := Bool.eq_false_iff.2 fun h => (hchange.1 h).2 heq
    rw [← beginCycle_of_same_records hp hcfg hr hsame]
    simp [step, hsame, hcycle, hr]
  · refine ⟨_, step_of_rst (hcycle ▸ hr), ?_, rfl, rfl⟩
    rw [State.doReset_chans, beginCycle_of_driven hp hcfg, map_doReset_eq, map_cfg_driveCfg hlen]

end Sys2Proof.Machine
end
